-- ==== Sys2Proof/Word.lean ====
section
/-! DEFINITION. The widths of the block's values: bytes of a stimulus stream, 16-bit control words and fields, 32-bit data words (R13, R62). -/

namespace Sys2Proof

/-- A byte of the stimulus stream, or an 8-bit offset or event code (R63). -/
abbrev Byte := BitVec 8

/-- A 16-bit control word (R62), or a 16-bit register field (R25, R30, R33, R34). -/
abbrev Half := BitVec 16

/-- A 32-bit data word or register value (R22, R64). -/
abbrev Word := BitVec 32

end Sys2Proof
end

