-- ==== Sys2Proof/Config.lean ====
section
/-! DEFINITION. The parameters of the block (R11), the constants fixed by the source (R10), the spec's defaults and the OPEN values. -/

namespace Sys2Proof

/-- The parameters of R11. `top` and `fSub` are TOP and F_SUB, `adcLatMax` is ADC_LAT_MAX in SUBCLK steps. -/
structure Params where
  adcBits : Nat
  t1 : Nat
  t2 : Nat
  t3 : Nat
  medScrollMs : Half
  medJumpMs : Half
  vfScrollMs : Half
  vfJumpMs : Half
  top : Nat
  fSub : Nat
  adcLatMax : Nat
  deriving DecidableEq, Repr

/-- The constraint column of R11. The four tier values fit 0..65535 by their type (D39). -/
abbrev Params.Valid (p : Params) : Prop :=
  1 ≤ p.adcBits ∧ p.adcBits ≤ 16 ∧
  p.t1 < p.t2 ∧ p.t2 < p.t3 ∧ p.t3 < 2 ^ p.adcBits - 1 ∧
  2 ≤ p.top ∧ p.top ≤ 65536 ∧
  1 ≤ p.fSub ∧
  p.adcLatMax < p.top

namespace Config

/-- MED_SCROLL_MS, OPEN (R11, D18): no source value, so no body (log 4). -/
opaque medScrollMs : Half
/-- MED_JUMP_MS, OPEN (R11, D18) (log 4). -/
opaque medJumpMs : Half
/-- VF_SCROLL_MS, OPEN (R11, D18) (log 4). -/
opaque vfScrollMs : Half
/-- VF_JUMP_MS, OPEN (R11, D18) (log 4). -/
opaque vfJumpMs : Half
/-- ADC_LAT_MAX, OPEN (R11, D37), below the default TOP = 256 (log 4). -/
opaque adcLatMax : Fin 256

/-- SLOW_SCROLL_MS, SLOW_JUMP_MS (R10). -/
def slowScrollMs : Half := 300
def slowJumpMs : Half := 500
/-- FAST_SCROLL_MS, FAST_JUMP_MS (R10). -/
def fastScrollMs : Half := 100
def fastJumpMs : Half := 180

/-- The defaults of R11, with the OPEN values of this namespace (log 3). -/
def params : Params where
  adcBits := 10
  t1 := 250
  t2 := 500
  t3 := 750
  medScrollMs := medScrollMs
  medJumpMs := medJumpMs
  vfScrollMs := vfScrollMs
  vfJumpMs := vfJumpMs
  top := 256
  fSub := 2000000
  adcLatMax := adcLatMax.val

end Config
end Sys2Proof
end

