-- ==== Sys2Proof/Syntax.lean ====
section
/-! DEFINITION. The stimuli of the block (R66, R70): one constructor per row of spec/opcode_table.json. -/

namespace Sys2Proof

/-- A decoded stimulus (R70). Reads carry no operand, writes carry the whole DATA word (R64, R71), SUBCLK carries RAW
(bit 0 ADV, bit 1 JUMP, bit 2 ABORT, R69), ADC_READY carries RESULT zero-extended to 16 bits (R69), and the two fallback
rows carry the offset that no exact row matches. -/
inductive Instr where
  | rdBtnState
  | rdBtnHist
  | rdRounds
  | rdStatus
  | rdTimeMs
  | rdTickCount
  | rdSubtick
  | rdAdcLast
  | rdTier
  | rdScrollMs
  | rdJumpMs
  | rdPwmCmp
  | rdPwmCnt
  | wrRounds (data : Word)
  | wrRoundsDec (data : Word)
  | wrStatus (data : Word)
  | wrTier (data : Word)
  | wrPwmCmp (data : Word)
  | evtSubclk (raw : BitVec 3)
  | evtAdcReady (result : Half)
  | evtReset
  | rdBuserr (ofs : Byte)
  | wrBuserr (ofs : Byte) (data : Word)
  deriving DecidableEq, Repr

end Sys2Proof
end

