-- ==== Sys2Proof/WellFormed.lean ====
section
/-! DEFINITION. Which terms of `Instr` some stimulus spells: an ADC result fits ADC_BITS (R69), and a fallback carries an offset no exact row matches (R70). -/

namespace Sys2Proof

/-- The offsets of the exact RD rows (R70): every register but the write-only ROUNDS_DEC. -/
def exactReadOffsets : List Byte :=
  [0x00, 0x04, 0x08, 0x10, 0x14, 0x18, 0x1C, 0x20, 0x24, 0x28, 0x2C, 0x30, 0x34]

/-- The offsets of the exact WR rows (R70): the RW, RW1C and WO registers. -/
def exactWriteOffsets : List Byte := [0x08, 0x0C, 0x10, 0x24, 0x30]

/-- A stimulus some words of R70 spell, with the parameters `p` (R46). Total and decidable. -/
def Instr.wellFormedWith (p : Params) (i : Instr) : Bool :=
  match i with
  | .rdBtnState | .rdBtnHist | .rdRounds | .rdStatus | .rdTimeMs | .rdTickCount | .rdSubtick | .rdAdcLast
  | .rdTier | .rdScrollMs | .rdJumpMs | .rdPwmCmp | .rdPwmCnt => true
  | .wrRounds _ | .wrRoundsDec _ | .wrStatus _ | .wrTier _ | .wrPwmCmp _ => true
  | .evtSubclk _ | .evtReset => true
  | .evtAdcReady result => decide (result.toNat < 2 ^ p.adcBits)
  | .rdBuserr ofs => !exactReadOffsets.contains ofs
  | .wrBuserr ofs _ => !exactWriteOffsets.contains ofs

/-- A stimulus some words of R70 spell, with the spec's defaults (log 3). -/
def Instr.wellFormed (i : Instr) : Bool := i.wellFormedWith Config.params

end Sys2Proof
end

