-- ==== Sys2Proof/Decode.lean ====
section
/-! DEFINITION. The stimulus decoder (R62 to R74), total on any bytes and refusing by the codes of R73, and the encoder written from the same table. -/

namespace Sys2Proof

/-- The refusal codes of R73, in the order of its table. The first four are the decoder's, the last two the state's.
Each is a verdict on the input and safe: a claim about a refused stream cannot be proved of the hardware. -/
inductive RefusalCode where
  | illClass
  | rsvCtrl
  | unknownEvent
  | evtDataRsv
  | adcNotPending
  | hostWhileBusy
  deriving DecidableEq, Repr

/-- What the decoder reads at the head of a stream: a stimulus and the bytes after it, a refusal of R73, or no whole stimulus. -/
inductive Decoded where
  | instr (i : Instr) (rest : List Byte)
  | refused (code : RefusalCode)
  | truncated
  | empty
  deriving DecidableEq, Repr

/-! ### Fields of the control word (R63) -/

def clsField (ctrl : Half) : BitVec 2 := ctrl.extractLsb' 14 2
def rsvField (ctrl : Half) : BitVec 6 := ctrl.extractLsb' 8 6
/-- OFS of a bus access, EVC of an event. -/
def ofsField (ctrl : Half) : Byte := ctrl.extractLsb' 0 8

/-- A 16-bit control word from two stream bytes, low byte first (log 2). -/
def halfOfBytes (lo hi : Byte) : Half := hi ++ lo

/-- A 32-bit data word from four stream bytes, low byte first (log 2). -/
def wordOfBytes (b0 b1 b2 b3 : Byte) : Word := b3 ++ b2 ++ b1 ++ b0

def bytesOfHalf (h : Half) : List Byte := [h.extractLsb' 0 8, h.extractLsb' 8 8]

def bytesOfWord (w : Word) : List Byte :=
  [w.extractLsb' 0 8, w.extractLsb' 8 8, w.extractLsb' 16 8, w.extractLsb' 24 8]

/-! ### Decoding -/

/-- The RD rows of R70: an exact row where there is one, else the fallback RD.BUSERR. -/
def decodeRead (ofs : Byte) : Instr :=
  if ofs = 0x00 then .rdBtnState
  else if ofs = 0x04 then .rdBtnHist
  else if ofs = 0x08 then .rdRounds
  else if ofs = 0x10 then .rdStatus
  else if ofs = 0x14 then .rdTimeMs
  else if ofs = 0x18 then .rdTickCount
  else if ofs = 0x1C then .rdSubtick
  else if ofs = 0x20 then .rdAdcLast
  else if ofs = 0x24 then .rdTier
  else if ofs = 0x28 then .rdScrollMs
  else if ofs = 0x2C then .rdJumpMs
  else if ofs = 0x30 then .rdPwmCmp
  else if ofs = 0x34 then .rdPwmCnt
  else .rdBuserr ofs

/-- The WR rows of R70: an exact row where there is one, else the fallback WR.BUSERR. -/
def decodeWrite (ofs : Byte) (data : Word) : Instr :=
  if ofs = 0x08 then .wrRounds data
  else if ofs = 0x0C then .wrRoundsDec data
  else if ofs = 0x10 then .wrStatus data
  else if ofs = 0x24 then .wrTier data
  else if ofs = 0x30 then .wrPwmCmp data
  else .wrBuserr ofs data

/-- The event operands of R68 and R69. `none` where DATA has a bit outside the event's fields (EVT_DATA_RSV, R73).
It is asked only for the three codes of R68. -/
def decodeEvent (p : Params) (evc : Byte) (data : Word) : Option Instr :=
  if evc = 0x01 then
    if data.toNat < 2 ^ 3 then some (.evtSubclk (data.setWidth 3)) else none
  else if evc = 0x02 then
    if data.toNat < 2 ^ p.adcBits then some (.evtAdcReady (data.setWidth 16)) else none
  else
    if data = 0 then some .evtReset else none

/-- The refusals a control word alone decides (R73), in the order of its table. -/
def controlRefusal (ctrl : Half) : Option RefusalCode :=
  if clsField ctrl = 0b11 then some .illClass
  else if rsvField ctrl ≠ 0 then some .rsvCtrl
  else if clsField ctrl = 0b10 ∧ ofsField ctrl ≠ 0x01 ∧ ofsField ctrl ≠ 0x02 ∧ ofsField ctrl ≠ 0x03 then some .unknownEvent
  else none

/-- The bytes of the stimulus a control word begins (R74): 2 where CLS = 0b00, 6 otherwise. -/
def stimulusBytes (ctrl : Half) : Nat := if clsField ctrl = 0b00 then 2 else 6

/-- Decoding a WR or EVT control word that `controlRefusal` lets pass, with its data word. -/
def decodeWithData (p : Params) (ctrl : Half) (data : Word) (rest : List Byte) : Decoded :=
  if clsField ctrl = 0b01 then .instr (decodeWrite (ofsField ctrl) data) rest
  else match decodeEvent p (ofsField ctrl) data with
    | some i => .instr i rest
    | none => .refused .evtDataRsv

/-- The decoder (R62 to R74) with the parameters `p` (R46). A refusal that the control word decides needs no data word to
be present. -/
def decodeWith (p : Params) : List Byte → Decoded
  | [] => .empty
  | [_] => .truncated
  | c0 :: c1 :: rest =>
    match controlRefusal (halfOfBytes c0 c1) with
    | some code => .refused code
    | none =>
      if clsField (halfOfBytes c0 c1) = 0b00 then .instr (decodeRead (ofsField (halfOfBytes c0 c1))) rest
      else match rest with
        | d0 :: d1 :: d2 :: d3 :: rest' => decodeWithData p (halfOfBytes c0 c1) (wordOfBytes d0 d1 d2 d3) rest'
        | _ => .truncated

/-- The decoder with the spec's defaults (log 3). -/
def decode (bytes : List Byte) : Decoded := decodeWith Config.params bytes

/-! ### Encoding -/

/-- The control word of a stimulus (R70). -/
def Instr.control (i : Instr) : Half :=
  match i with
  | .rdBtnState => 0x0000
  | .rdBtnHist => 0x0004
  | .rdRounds => 0x0008
  | .rdStatus => 0x0010
  | .rdTimeMs => 0x0014
  | .rdTickCount => 0x0018
  | .rdSubtick => 0x001C
  | .rdAdcLast => 0x0020
  | .rdTier => 0x0024
  | .rdScrollMs => 0x0028
  | .rdJumpMs => 0x002C
  | .rdPwmCmp => 0x0030
  | .rdPwmCnt => 0x0034
  | .wrRounds _ => 0x4008
  | .wrRoundsDec _ => 0x400C
  | .wrStatus _ => 0x4010
  | .wrTier _ => 0x4024
  | .wrPwmCmp _ => 0x4030
  | .evtSubclk _ => 0x8001
  | .evtAdcReady _ => 0x8002
  | .evtReset => 0x8003
  | .rdBuserr ofs => (0x00 : Byte) ++ ofs
  | .wrBuserr ofs _ => (0x40 : Byte) ++ ofs

/-- The data word of a stimulus (R62, R64, R69): none for a bus read. -/
def Instr.dataWord (i : Instr) : Option Word :=
  match i with
  | .rdBtnState | .rdBtnHist | .rdRounds | .rdStatus | .rdTimeMs | .rdTickCount | .rdSubtick | .rdAdcLast
  | .rdTier | .rdScrollMs | .rdJumpMs | .rdPwmCmp | .rdPwmCnt | .rdBuserr _ => none
  | .wrRounds data | .wrRoundsDec data | .wrStatus data | .wrTier data | .wrPwmCmp data | .wrBuserr _ data => some data
  | .evtSubclk raw => some (raw.setWidth 32)
  | .evtAdcReady result => some (result.setWidth 32)
  | .evtReset => some 0

/-- The bytes of a stimulus: its control word, then its data word if it has one (R62). -/
def encode (i : Instr) : List Byte :=
  bytesOfHalf i.control ++ match i.dataWord with
    | some d => bytesOfWord d
    | none => []

/-- The bytes of a stream of stimuli (R62, R76). -/
def encodeAll (is : List Instr) : List Byte := is.flatMap encode

/-! ### The host's word form -/

/-- The six bytes of the longest stimulus in a number whose bit 0 is the first word's lowest bit, the bits above `nbits` zero. -/
def tableBytes (nbits w : Nat) : List Byte :=
  (List.range 6).map fun k => BitVec.ofNat 8 ((w % 2 ^ nbits) / 2 ^ (8 * k))

/-- The stimulus the decoder reads from a table word (bit 0 is bit 0 of the control word). -/
def decodeTableWord (nbits w : Nat) : Option Instr :=
  match decode (tableBytes nbits w) with
  | .instr i _ => some i
  | _ => none

end Sys2Proof
end

