-- ==== Sys2Proof/Machine/State.lean ====
section
/-! DEFINITION. The state of the block as plain data (R22 to R46), its reset value (R42, R172), and the reasons a step can stop. -/

namespace Sys2Proof.Machine

/-- The three button channels of R91, in channel order 0, 1, 2. -/
inductive Chan where
  | adv
  | jump
  | abort
  deriving DecidableEq, Repr

/-- One channel's register set (R37): the shift history (bit 0 newest), the debounced state (1 = pressed), and the
debounced state at the end of the previous tick. -/
structure Channel where
  hist : BitVec 5
  db : Bool
  prev : Bool
  deriving DecidableEq, Repr, Inhabited

/-- The block's registers and flags (R22 to R38): every piece of hardware state but what the ports drive. -/
structure Regs where
  /-- hist, db and prev of channel 0 ADV, 1 JUMP and 2 ABORT (R37). -/
  adv : Channel
  jump : Channel
  abort : Channel
  /-- ROUNDS.COUNT (R25). -/
  rounds : Half
  /-- STATUS.ABORT_PEND (R27). -/
  abortPend : Bool
  /-- TICK_COUNT (R29). -/
  tickCount : Word
  /-- SUBTICK.COUNT (R30). -/
  subtick : Half
  /-- ADC_LAST.SAMPLE, zero-extended to 16 bits (R31, R69, log 14). -/
  adcLast : Half
  /-- TIER.CODE (R32). -/
  tier : BitVec 2
  /-- SCROLL_MS.MS (R33). -/
  scrollMs : Half
  /-- JUMP_MS.MS (R34). -/
  jumpMs : Half
  /-- PWM_CMP.CMP (R35). -/
  pwmCmp : Byte
  /-- PWM_CNT.CNT (R36). -/
  pwmCnt : Byte
  /-- BUSY, a conversion is pending (R38, R39). -/
  busy : Bool
  deriving DecidableEq, Repr, Inhabited

/-- The fault codes of R150. -/
inductive FaultCode where
  | busUnmapped
  | busMisaligned
  | busRoWrite
  | busWoRead
  | tickOverrun
  deriving DecidableEq, Repr

/-- The numbers of the fault codes (R150). -/
def FaultCode.number (c : FaultCode) : Byte :=
  match c with
  | .busUnmapped => 0x01
  | .busMisaligned => 0x02
  | .busRoWrite => 0x03
  | .busWoRead => 0x04
  | .tickOverrun => 0x05

/-- The fault record of R45 and R150: the code, the offending stimulus's control word and data word (none for a bus read,
which has none, log 9), and TICK_COUNT when the fault was raised. -/
structure FaultRecord where
  code : FaultCode
  control : Half
  data : Option Word
  tickCount : Word
  deriving DecidableEq, Repr

/-- The host bus response of R41 and R64: a read value, the OK of a write, or the `err` of a bus error with its code. -/
inductive Response where
  | data (value : Word)
  | ok
  | err (code : FaultCode)
  deriving DecidableEq, Repr

/-- What the latest stimulus drove on the output strobes and the response port of R41 (log 8). The level outputs
`pwm_out`, `abort_pend` and `wait` are functions of the registers (Machine/Ports.lean). -/
structure Outputs where
  response : Option Response
  adcStart : Bool
  advStb : Bool
  exitStb : Bool
  /-- `relabel_stb` with `relabel_tier`. -/
  relabel : Option (BitVec 2)
  deriving DecidableEq, Repr, Inhabited

/-- No strobe asserted and no response (R42 "output strobes: not asserted"). -/
def Outputs.idle : Outputs where
  response := none
  adcStart := false
  advStb := false
  exitStb := false
  relabel := none

/-- The entries of the event history (R44). `t` is TICK_COUNT after the tick's increment. -/
inductive Event where
  | adcStart (t : Word)
  | advanceEdge (t : Word)
  | exitDisplay (t : Word)
  | relabel (tier : BitVec 2) (t : Word)
  | reset
  deriving DecidableEq, Repr

end Sys2Proof.Machine

namespace Sys2Proof.Config

/-- The registers after a TICK_OVERRUN: unspecified (R160, I8), so a free value, applied to the state's counter and to the
registers before (log 6). -/
opaque regsAfterOverrun (n : Nat) (before : Machine.Regs) : Machine.Regs

/-- The output ports after a TICK_OVERRUN: unspecified (R160, I8), so a free value (log 6). -/
opaque outputsAfterOverrun (n : Nat) (before : Machine.Regs) : Machine.Outputs

end Sys2Proof.Config

namespace Sys2Proof.Machine

/-- The state of the model: the hardware (registers and output ports), the records of R44 and R45, and two fields of the
model's own, the stimulus stream still to come (R62, log 1) and the counter of free values (log 6). -/
structure State where
  regs : Regs
  out : Outputs
  /-- The event history of R44, oldest first. -/
  history : List Event
  /-- The fault record of R45. -/
  faultRecord : Option FaultRecord
  /-- The refused mark of R45. -/
  refusedMark : Option RefusalCode
  freeCount : Nat
  stream : List Byte
  deriving DecidableEq, Repr

/-- The reset values of one channel (R42). -/
def Channel.reset : Channel where
  hist := 0b00000
  db := false
  prev := false

/-- The reset values of the registers (R42). -/
def Regs.reset : Regs where
  adv := Channel.reset
  jump := Channel.reset
  abort := Channel.reset
  rounds := 0
  abortPend := false
  tickCount := 0
  subtick := 0
  adcLast := 0
  tier := 0
  scrollMs := 300
  jumpMs := 500
  pwmCmp := 0
  pwmCnt := 0
  busy := false

/-- The model's initial state (R172): the reset state of R42 with an empty history, no fault and no refused mark. The stream
is empty and the counter 0 by the model's choice (log 1, log 6). -/
def State.reset : State where
  regs := Regs.reset
  out := Outputs.idle
  history := []
  faultRecord := none
  refusedMark := none
  freeCount := 0
  stream := []

/-- The reasons the machine stops with a fault. -/
inductive Fault where
  /-- Raised by `step` in a state whose fault record is set: no agent has a step there (R45, R87). Safe: the stop is the
  spec's own, and nothing is claimed of a run past it. -/
  | recorded (r : FaultRecord)
  deriving DecidableEq, Repr

/-- The reasons the machine refuses to step. -/
inductive Refusal where
  /-- Raised by `exec` for an instruction that has no meaning yet. Safe. -/
  | notModelled (mnemonic : String)
  /-- Raised by `step` in a state whose refused mark is set: no agent has a step there (R45, R87). Safe. -/
  | marked (code : RefusalCode)
  /-- Raised by `step` where the stimulus stream is at its end: every step is a stimulus (R66) and there is none. Safe (log 11). -/
  | noStimulus
  /-- Raised by `step` where the stream ends inside a stimulus, so that it is no sequence of stimuli (R62). Safe (log 11). -/
  | truncatedStimulus
  /-- Raised by the two bus error meanings for a term that no stimulus spells, a fallback at an offset that an exact row
  matches (R70). The decoder never gives it. Safe (log 15). -/
  | illFormed
  deriving DecidableEq, Repr

end Sys2Proof.Machine
end

