-- ==== Sys2Proof/Machine/Flags.lean ====
section
/-! DEFINITION. The flags of R38 and how each is computed: the debounced states and the rising edge, ABORT_PEND, OUT. BUSY is set and cleared in Ops. -/

namespace Sys2Proof.Machine

/-- The shift stage (R92): shift left by one, mask to 5 bits, new sample in bit 0. -/
def shiftHistory (hist : BitVec 5) (r : Bool) : BitVec 5 :=
  ((hist <<< 1) &&& 0b11111) ||| (BitVec.ofBool r).setWidth 5

/-- The commit (R93) from the new history: pressed at all ones, released at all zeros, else unchanged. -/
def commitDebounced (hist : BitVec 5) (db : Bool) : Bool :=
  if hist = 0b11111 then true
  else if hist = 0b00000 then false
  else db

/-- The rising edge (R94): the new debounced state is pressed and the previous one released. -/
def risingEdge (db prev : Bool) : Bool := db && !prev

/-- One tick of a channel's registers with the raw sample `r` (R92, R93, and the write of prev in R94). -/
def Channel.sample (c : Channel) (r : Bool) : Channel where
  hist := shiftHistory c.hist r
  db := commitDebounced (shiftHistory c.hist r) c.db
  prev := commitDebounced (shiftHistory c.hist r) c.db

/-- Whether that tick is a rising edge of the channel (R94), local to the tick. -/
def Channel.rising (c : Channel) (r : Bool) : Bool :=
  risingEdge (commitDebounced (shiftHistory c.hist r) c.db) c.prev

/-- ABORT_PEND after a host write to STATUS (R140): DATA[0] = 1 clears it, 0 leaves it. -/
def abortPendAfterWrite (abortPend : Bool) (data : Word) : Bool :=
  if data.getLsbD 0 then false else abortPend

/-- OUT (R119): an unsigned, strict compare of the counter against PWM_CMP. -/
def outLevel (cnt cmp : Byte) : Bool := decide (cnt.toNat < cmp.toNat)

end Sys2Proof.Machine
end

