-- ==== Sys2Proof/Machine/Operands.lean ====
section
/-! DEFINITION. The register window as a map (R22), the value each register reads as (R23 to R36), the bits a write takes (R71), and the arithmetic of R14, R104, R105 and R112. -/

namespace Sys2Proof.Machine

/-! ### The register map (R22) -/

/-- The fourteen registers of R22. -/
inductive Register where
  | btnState
  | btnHist
  | rounds
  | roundsDec
  | status
  | timeMs
  | tickCount
  | subtick
  | adcLast
  | tier
  | scrollMs
  | jumpMs
  | pwmCmp
  | pwmCnt
  deriving DecidableEq, Repr

/-- The access codes of R22. -/
inductive Access where
  | ro
  | rw
  | wo
  | rw1c
  deriving DecidableEq, Repr

/-- The byte offset of a register (R22). -/
def Register.offset (r : Register) : Byte :=
  match r with
  | .btnState => 0x00
  | .btnHist => 0x04
  | .rounds => 0x08
  | .roundsDec => 0x0C
  | .status => 0x10
  | .timeMs => 0x14
  | .tickCount => 0x18
  | .subtick => 0x1C
  | .adcLast => 0x20
  | .tier => 0x24
  | .scrollMs => 0x28
  | .jumpMs => 0x2C
  | .pwmCmp => 0x30
  | .pwmCnt => 0x34

/-- The access code of a register (R22). -/
def Register.access (r : Register) : Access :=
  match r with
  | .btnState | .btnHist | .timeMs | .tickCount | .subtick | .adcLast | .scrollMs | .jumpMs | .pwmCnt => .ro
  | .rounds | .tier | .pwmCmp => .rw
  | .roundsDec => .wo
  | .status => .rw1c

/-- All fourteen registers, in the order of R22. -/
def registers : List Register :=
  [.btnState, .btnHist, .rounds, .roundsDec, .status, .timeMs, .tickCount, .subtick, .adcLast, .tier, .scrollMs,
   .jumpMs, .pwmCmp, .pwmCnt]

/-- REGMAP of R124: the register at an offset, if there is one. -/
def registerAt (ofs : Byte) : Option Register := registers.find? fun r => r.offset == ofs

/-- The direction of a host access, CLS of R65. -/
inductive Dir where
  | rd
  | wr
  deriving DecidableEq, Repr

/-- The bus error of an access, if it is one: the checks of R124 in their order, misaligned, unmapped, direction
(R143 to R145). -/
def busFault (d : Dir) (ofs : Byte) : Option FaultCode :=
  if ofs.extractLsb' 0 2 ≠ 0b00 then some .busMisaligned
  else if 0x34 < ofs.toNat then some .busUnmapped
  else match d, (registerAt ofs).map Register.access with
    | .rd, some .wo => some .busWoRead
    | .wr, some .ro => some .busRoWrite
    | _, some _ => none
    | _, none => some .busUnmapped

/-! ### Arithmetic -/

/-- `sat_inc16` of R14. -/
def satInc16 (v : Half) : Half := BitVec.ofNat 16 (min (v.toNat + 1) 0xFFFF)

/-- `sat_dec16` of R14: natural subtraction stops at 0. -/
def satDec16 (v : Half) : Half := BitVec.ofNat 16 (v.toNat - 1)

/-- `classify` of R104, with inclusive thresholds. -/
def classify (p : Params) (v : Nat) : BitVec 2 :=
  if v ≤ p.t1 then 0
  else if v ≤ p.t2 then 1
  else if v ≤ p.t3 then 2
  else 3

/-- The tier table of R105: the scroll period and the jump duration of a tier code. -/
def tierTable (p : Params) (t : BitVec 2) : Half × Half :=
  if t = 0 then (Config.slowScrollMs, Config.slowJumpMs)
  else if t = 1 then (p.medScrollMs, p.medJumpMs)
  else if t = 2 then (Config.fastScrollMs, Config.fastJumpMs)
  else (p.vfScrollMs, p.vfJumpMs)

/-- `TimeMs` of R112: the product and quotient exact, the result modulo 2^32. -/
def timeMs (p : Params) (tickCount : Word) (subtick : Half) : Word :=
  BitVec.ofNat 32 ((tickCount.toNat * p.top + subtick.toNat) * 1000 / p.fSub)

/-! ### Read values (R23 to R36) -/

/-- BTN_STATE (R23, R125): prev in bits 6:4, db in bits 2:0. -/
def btnStateValue (r : Regs) : Word :=
  (BitVec.ofBool r.abort.prev ++ BitVec.ofBool r.jump.prev ++ BitVec.ofBool r.adv.prev ++ 0b0#1 ++
    BitVec.ofBool r.abort.db ++ BitVec.ofBool r.jump.db ++ BitVec.ofBool r.adv.db).setWidth 32

/-- BTN_HIST (R24, R126). -/
def btnHistValue (r : Regs) : Word :=
  (r.abort.hist ++ 0b000#3 ++ r.jump.hist ++ 0b000#3 ++ r.adv.hist).setWidth 32

/-- PWM_CNT (R36, R137): OUT in bit 8, CNT below. -/
def pwmCntValue (r : Regs) : Word :=
  (BitVec.ofBool (outLevel r.pwmCnt r.pwmCmp) ++ r.pwmCnt).setWidth 32

/-- The value a register reads as (R125 to R137), `none` for the write-only ROUNDS_DEC (R26). -/
def readValue (p : Params) (reg : Register) (r : Regs) : Option Word :=
  match reg with
  | .btnState => some (btnStateValue r)
  | .btnHist => some (btnHistValue r)
  | .rounds => some (r.rounds.setWidth 32)
  | .roundsDec => none
  | .status => some ((BitVec.ofBool r.abortPend).setWidth 32)
  | .timeMs => some (timeMs p r.tickCount r.subtick)
  | .tickCount => some r.tickCount
  | .subtick => some (r.subtick.setWidth 32)
  | .adcLast => some (r.adcLast.setWidth 32)
  | .tier => some (r.tier.setWidth 32)
  | .scrollMs => some (r.scrollMs.setWidth 32)
  | .jumpMs => some (r.jumpMs.setWidth 32)
  | .pwmCmp => some (r.pwmCmp.setWidth 32)
  | .pwmCnt => some (pwmCntValue r)

/-! ### Writes (R71, R105) -/

/-- LoadTier (R105): the code and its pair, in one step. -/
def loadTier (p : Params) (t : BitVec 2) (r : Regs) : Regs :=
  { r with tier := t, scrollMs := (tierTable p t).1, jumpMs := (tierTable p t).2 }

/-- The effect of a host write on the registers (R138 to R142), `none` for the read-only registers (R145). -/
def writeValue (p : Params) (reg : Register) (data : Word) (r : Regs) : Option Regs :=
  match reg with
  | .rounds => some { r with rounds := data.extractLsb' 0 16 }
  | .roundsDec => some { r with rounds := satDec16 r.rounds }
  | .status => some { r with abortPend := abortPendAfterWrite r.abortPend data }
  | .tier => some (loadTier p (data.extractLsb' 0 2) r)
  | .pwmCmp => some { r with pwmCmp := data.extractLsb' 0 8 }
  | .btnState | .btnHist | .timeMs | .tickCount | .subtick | .adcLast | .scrollMs | .jumpMs | .pwmCnt => none

end Sys2Proof.Machine
end

