-- ==== Sys2Proof/Machine/Ops.lean ====
section
/-! DEFINITION. The shared operations: events, responses, refusals and faults (R44, R45, R64, R73, R150), the host access procedure (R124), tick entry and tick return (R81, R83, R157, R158), reset (R170). -/

namespace Sys2Proof.Machine

/-! ### Records and ports -/

/-- The strobe an event drives on its port (R41). -/
def Outputs.strobe (o : Outputs) (e : Event) : Outputs :=
  match e with
  | .adcStart _ => { o with adcStart := true }
  | .advanceEdge _ => { o with advStb := true }
  | .exitDisplay _ => { o with exitStb := true }
  | .relabel tier _ => { o with relabel := some tier }
  | .reset => o

/-- `emit` of R14: append the event to the history and drive its strobe. -/
def emit (e : Event) (s : State) : State :=
  { s with history := s.history ++ [e], out := s.out.strobe e }

/-- A host access completes with this response (R124); no strobe is driven. -/
def respond (r : Response) (s : State) : State :=
  { s with out := { Outputs.idle with response := some r } }

/-- A stimulus that is no host access begins with nothing on the ports (log 8). -/
def quiet (s : State) : State := { s with out := Outputs.idle }

/-- `refuse` of R14: the refused mark is set and nothing else changes, since the stimulus spells no step (R73, log 7). -/
def refuse (code : RefusalCode) (s : State) : State := { s with refusedMark := some code }

/-- The fault record of R150 for the stimulus `i` at state `s`. -/
def faultRecordOf (code : FaultCode) (i : Instr) (s : State) : FaultRecord where
  code := code
  control := i.control
  data := i.dataWord
  tickCount := s.regs.tickCount

/-- Taking a bus fault (R143, R150, R160): the `err` response, no register changes, and the fault record is set, after
which no step follows (R87, log 5). -/
def raiseBusFault (code : FaultCode) (i : Instr) (s : State) : State :=
  { respond (.err code) s with faultRecord := some (faultRecordOf code i s) }

/-- Taking a TICK_OVERRUN (R80, R150): the fault record is set; the hardware is left at free values (R160, log 6). -/
def raiseOverrun (i : Instr) (s : State) : State :=
  { s with
    regs := Config.regsAfterOverrun s.freeCount s.regs
    out := Config.outputsAfterOverrun s.freeCount s.regs
    freeCount := s.freeCount + 1
    faultRecord := some (faultRecordOf .tickOverrun i s) }

/-! ### Host accesses (R124) -/

/-- A host step: refused while BUSY = 1 (R73, R85), else the access. -/
def hostStep (access : State → State) (s : State) : State :=
  if s.regs.busy then refuse .hostWhileBusy s else access s

/-- A completed read: its value is the response and nothing else changes (R54, R124). -/
def completeRead (value : Regs → Word) (s : State) : Host.Outcome State Fault Refusal :=
  .next (hostStep (fun s => respond (.data (value s.regs)) s) s)

/-- A completed write: an OK response and the write's effect on the registers (R124). -/
def completeWrite (effect : Regs → Regs) (s : State) : Host.Outcome State Fault Refusal :=
  .next (hostStep (fun s => { respond .ok s with regs := effect s.regs }) s)

/-- A bus error access: the fault the checks of R124 find. A term whose offset is none is ill-formed (log 15). -/
def busErrorAccess (d : Dir) (ofs : Byte) (i : Instr) (s : State) : Host.Outcome State Fault Refusal :=
  if s.regs.busy then .next (refuse .hostWhileBusy s)
  else match busFault d ofs with
    | some code => .next (raiseBusFault code i s)
    | none => .refused .illFormed

/-- HostAccess of R124 for any direction, offset and data: the one procedure that every RD and WR row is a case of. -/
def hostAccess (p : Params) (d : Dir) (ofs : Byte) (data : Word) (s : State) : State :=
  if s.regs.busy then refuse .hostWhileBusy s
  else match busFault d ofs with
    | some code =>
      raiseBusFault code (match d with | .rd => .rdBuserr ofs | .wr => .wrBuserr ofs data) s
    | none =>
      match d, registerAt ofs with
      | .rd, some reg =>
        match readValue p reg s.regs with
        | some v => respond (.data v) s
        | none => s
      | .wr, some reg =>
        match writeValue p reg data s.regs with
        | some r => { respond .ok s with regs := r }
        | none => s
      | _, none => s

/-! ### The tick: entry in the wrapping SUBCLK (R157), return in ADC_READY (R158) -/

/-- The register set of a channel (R37). -/
def Regs.chan (r : Regs) (c : Chan) : Channel :=
  match c with
  | .adv => r.adv
  | .jump => r.jump
  | .abort => r.abort

def Regs.setChan (r : Regs) (c : Chan) (v : Channel) : Regs :=
  match c with
  | .adv => { r with adv := v }
  | .jump => { r with jump := v }
  | .abort => { r with abort := v }

/-- Debounce(c, r): R92 to R94 on the channel's registers. -/
def debounce (c : Chan) (r : Bool) (s : State) : State :=
  { s with regs := s.regs.setChan c ((s.regs.chan c).sample r) }

/-- EdgeAction(c, n) for a rising edge: R95 for ADV, R96 for ABORT, nothing for JUMP (R97). -/
def edgeAction (c : Chan) (n : Word) (s : State) : State :=
  match c with
  | .adv => emit (.advanceEdge n) { s with regs := { s.regs with rounds := satInc16 s.regs.rounds } }
  | .jump => s
  | .abort =>
    let s := { s with regs := { s.regs with abortPend := true } }
    let s := emit (.exitDisplay n) s
    { s with regs := { s.regs with rounds := 0 } }

/-- One channel's part of phase A (R81, R98): Debounce, then EdgeAction if the edge is rising. -/
def channelTick (c : Chan) (r : Bool) (n : Word) (s : State) : State :=
  if (s.regs.chan c).rising r then edgeAction c n (debounce c r s) else debounce c r s

/-- AdcStart(n) (R101): BUSY and the start strobe. -/
def adcStart (n : Word) (s : State) : State :=
  emit (.adcStart n) { s with regs := { s.regs with busy := true } }

/-- TimebaseTick (R110). -/
def timebaseTick (s : State) : State :=
  { s with regs := { s.regs with tickCount := s.regs.tickCount + 1 } }

/-- PwmTick (R118). -/
def pwmTick (s : State) : State :=
  { s with regs := { s.regs with pwmCnt := s.regs.pwmCnt + 1 } }

/-- Tick entry, TickPhaseA(raw) (R81, R157): nothing is saved, BUSY is set, control goes to the fixed procedure. -/
def tickPhaseA (raw : BitVec 3) (s : State) : State :=
  let n := s.regs.tickCount + 1
  let s := channelTick .adv (raw.getLsbD 0) n s
  let s := channelTick .jump (raw.getLsbD 1) n s
  let s := channelTick .abort (raw.getLsbD 2) n s
  let s := adcStart n s
  let s := timebaseTick s
  pwmTick s

/-- SUBCLK(raw) (R80): count, and at the wrap either the overrun fault or the tick. -/
def subclk (p : Params) (raw : BitVec 3) (s : State) : State :=
  if s.regs.subtick.toNat < p.top - 1 then
    let s := quiet s
    { s with regs := { s.regs with subtick := s.regs.subtick + 1 } }
  else if s.regs.busy then raiseOverrun (.evtSubclk raw) s
  else
    let s := quiet s
    tickPhaseA raw { s with regs := { s.regs with subtick := 0 } }

/-- AdcComplete(v) (R102, R103, R106): reclassify and relabel if the sample changed, then keep the sample. -/
def adcComplete (p : Params) (v : Half) (s : State) : State :=
  let s :=
    if v ≠ s.regs.adcLast then
      emit (.relabel (classify p v.toNat) s.regs.tickCount) { s with regs := loadTier p (classify p v.toNat) s.regs }
    else s
  { s with regs := { s.regs with adcLast := v } }

/-- Tick return, ADC_READY(v) (R83, R158): phase B of the pending tick, refused where none is pending (R84). A result that
does not fit ADC_BITS is the refusal EVT_DATA_RSV, checked first (R73). -/
def adcReady (p : Params) (v : Half) (s : State) : State :=
  if 2 ^ p.adcBits ≤ v.toNat then refuse .evtDataRsv s
  else if s.regs.busy then
    let s := adcComplete p v (quiet s)
    { s with regs := { s.regs with busy := false } }
  else refuse .adcNotPending s

/-! ### Reset (R170) -/

/-- RESET: every register by R170's list, the Reset event, and neither the records nor the history cleared. -/
def resetBlock (p : Params) (s : State) : State :=
  let s := quiet s
  let r := s.regs
  let r := { r with adv := ⟨0b00000, false, false⟩, jump := ⟨0b00000, false, false⟩, abort := ⟨0b00000, false, false⟩ }
  let r := { r with rounds := 0, abortPend := false, tickCount := 0, subtick := 0, adcLast := 0 }
  let r := loadTier p 0 r
  let r := { r with pwmCnt := 0, pwmCmp := 0, busy := false }
  emit .reset { s with regs := r }

end Sys2Proof.Machine
end

