-- ==== Sys2Proof/Machine/BusError.lean ====
section
/-! DEFINITION. The meanings of the two fallback rows: bus error accesses (R143 to R145). -/

namespace Sys2Proof.Machine

/-- R143, R144: BUS_MISALIGNED, BUS_UNMAPPED or BUS_WO_READ. -/
def execRdBuserr (ofs : Byte) (s : State) : Host.Outcome State Fault Refusal :=
  busErrorAccess .rd ofs (.rdBuserr ofs) s

/-- R143, R145: BUS_MISALIGNED, BUS_UNMAPPED or BUS_RO_WRITE. -/
def execWrBuserr (ofs : Byte) (data : Word) (s : State) : Host.Outcome State Fault Refusal :=
  busErrorAccess .wr ofs (.wrBuserr ofs data) s

end Sys2Proof.Machine
end

