-- ==== Sys2Proof/Machine/Events.lean ====
section
/-! DEFINITION. The meanings of the three events: SUBCLK (R80, R81), ADC_READY (R83), RESET (R170). -/

namespace Sys2Proof.Machine

/-- R80, with tick entry (R81) at every TOP-th. -/
def execEvtSubclk (raw : BitVec 3) (s : State) : Host.Outcome State Fault Refusal := .next (subclk Config.params raw s)

/-- R83. -/
def execEvtAdcReady (result : Half) (s : State) : Host.Outcome State Fault Refusal :=
  .next (adcReady Config.params result s)

/-- R170. -/
def execEvtReset (s : State) : Host.Outcome State Fault Refusal := .next (resetBlock Config.params s)

end Sys2Proof.Machine
end

