-- ==== Sys2Proof/Machine/HostRead.lean ====
section
/-! DEFINITION. The meanings of the thirteen host reads (R125 to R137). -/

namespace Sys2Proof.Machine

/-- R125. -/
def execRdBtnState (s : State) : Host.Outcome State Fault Refusal := completeRead btnStateValue s

/-- R126. -/
def execRdBtnHist (s : State) : Host.Outcome State Fault Refusal := completeRead btnHistValue s

/-- R127. -/
def execRdRounds (s : State) : Host.Outcome State Fault Refusal := completeRead (fun r => r.rounds.setWidth 32) s

/-- R128. The read does not clear the flag. -/
def execRdStatus (s : State) : Host.Outcome State Fault Refusal :=
  completeRead (fun r => (BitVec.ofBool r.abortPend).setWidth 32) s

/-- RD.TIME_MS with the parameters `p` (R112, R129). -/
def readTimeMs (p : Params) (s : State) : Host.Outcome State Fault Refusal :=
  completeRead (fun r => timeMs p r.tickCount r.subtick) s

/-- R129. -/
def execRdTimeMs (s : State) : Host.Outcome State Fault Refusal := readTimeMs Config.params s

/-- R130. -/
def execRdTickCount (s : State) : Host.Outcome State Fault Refusal := completeRead (fun r => r.tickCount) s

/-- R131. -/
def execRdSubtick (s : State) : Host.Outcome State Fault Refusal := completeRead (fun r => r.subtick.setWidth 32) s

/-- R132. -/
def execRdAdcLast (s : State) : Host.Outcome State Fault Refusal := completeRead (fun r => r.adcLast.setWidth 32) s

/-- R133. -/
def execRdTier (s : State) : Host.Outcome State Fault Refusal := completeRead (fun r => r.tier.setWidth 32) s

/-- R134. -/
def execRdScrollMs (s : State) : Host.Outcome State Fault Refusal := completeRead (fun r => r.scrollMs.setWidth 32) s

/-- R135. -/
def execRdJumpMs (s : State) : Host.Outcome State Fault Refusal := completeRead (fun r => r.jumpMs.setWidth 32) s

/-- R136. -/
def execRdPwmCmp (s : State) : Host.Outcome State Fault Refusal := completeRead (fun r => r.pwmCmp.setWidth 32) s

/-- R137. -/
def execRdPwmCnt (s : State) : Host.Outcome State Fault Refusal := completeRead pwmCntValue s

end Sys2Proof.Machine
end

