-- ==== Sys2Proof/Machine/HostWrite.lean ====
section
/-! DEFINITION. The meanings of the five host writes (R138 to R142). -/

namespace Sys2Proof.Machine

/-- R138: COUNT takes DATA[15:0]. -/
def execWrRounds (data : Word) (s : State) : Host.Outcome State Fault Refusal :=
  completeWrite (fun r => { r with rounds := data.extractLsb' 0 16 }) s

/-- R139: one atomic saturating decrement, whatever DATA is. -/
def execWrRoundsDec (_data : Word) (s : State) : Host.Outcome State Fault Refusal :=
  completeWrite (fun r => { r with rounds := satDec16 r.rounds }) s

/-- R140: DATA[0] = 1 clears ABORT_PEND. -/
def execWrStatus (data : Word) (s : State) : Host.Outcome State Fault Refusal :=
  completeWrite (fun r => { r with abortPend := abortPendAfterWrite r.abortPend data }) s

/-- WR.TIER with the parameters `p` (R105, R141): LoadTier(DATA[1:0]), with no Relabel. -/
def writeTier (p : Params) (data : Word) (s : State) : Host.Outcome State Fault Refusal :=
  completeWrite (loadTier p (data.extractLsb' 0 2)) s

/-- R141. -/
def execWrTier (data : Word) (s : State) : Host.Outcome State Fault Refusal := writeTier Config.params data s

/-- R142: CMP takes DATA[7:0]. -/
def execWrPwmCmp (data : Word) (s : State) : Host.Outcome State Fault Refusal :=
  completeWrite (fun r => { r with pwmCmp := data.extractLsb' 0 8 }) s

end Sys2Proof.Machine
end

