-- ==== Sys2Proof/Machine/Dispatch.lean ====
section
/-! DEFINITION. The dispatch of the stimuli to their meanings, one arm per constructor. -/

namespace Sys2Proof.Machine

def exec (i : Instr) (s : State) : Host.Outcome State Fault Refusal :=
  match i with
  | .rdBtnState => Sys2Proof.Machine.execRdBtnState s
  | .rdBtnHist => Sys2Proof.Machine.execRdBtnHist s
  | .rdRounds => Sys2Proof.Machine.execRdRounds s
  | .rdStatus => Sys2Proof.Machine.execRdStatus s
  | .rdTimeMs => Sys2Proof.Machine.execRdTimeMs s
  | .rdTickCount => Sys2Proof.Machine.execRdTickCount s
  | .rdSubtick => Sys2Proof.Machine.execRdSubtick s
  | .rdAdcLast => Sys2Proof.Machine.execRdAdcLast s
  | .rdTier => Sys2Proof.Machine.execRdTier s
  | .rdScrollMs => Sys2Proof.Machine.execRdScrollMs s
  | .rdJumpMs => Sys2Proof.Machine.execRdJumpMs s
  | .rdPwmCmp => Sys2Proof.Machine.execRdPwmCmp s
  | .rdPwmCnt => Sys2Proof.Machine.execRdPwmCnt s
  | .wrRounds data => Sys2Proof.Machine.execWrRounds data s
  | .wrRoundsDec data => Sys2Proof.Machine.execWrRoundsDec data s
  | .wrStatus data => Sys2Proof.Machine.execWrStatus data s
  | .wrTier data => Sys2Proof.Machine.execWrTier data s
  | .wrPwmCmp data => Sys2Proof.Machine.execWrPwmCmp data s
  | .evtSubclk raw => Sys2Proof.Machine.execEvtSubclk raw s
  | .evtAdcReady result => Sys2Proof.Machine.execEvtAdcReady result s
  | .evtReset => Sys2Proof.Machine.execEvtReset s
  | .rdBuserr ofs => Sys2Proof.Machine.execRdBuserr ofs s
  | .wrBuserr ofs data => Sys2Proof.Machine.execWrBuserr ofs data s

end Sys2Proof.Machine
end

