-- ==== Sys2Proof/Machine/Fetch.lean ====
section
/-! DEFINITION. Taking the next stimulus from the stream (R62, R74), and what a refused one leaves. -/

namespace Sys2Proof.Machine

/-- The stimulus at the head of the stream. -/
def fetch (s : State) : Decoded := decode s.stream

/-- The number of bytes the stimulus at the head of the stream has (R74), 0 where there is no control word. -/
def headBytes (stream : List Byte) : Nat :=
  match stream with
  | c0 :: c1 :: _ => stimulusBytes (halfOfBytes c0 c1)
  | _ => 0

/-- A stimulus the decoder refuses: the refused mark is set and the stimulus is taken from the stream (R73, log 12). -/
def refuseFetched (code : RefusalCode) (s : State) : State :=
  refuse code { s with stream := s.stream.drop (headBytes s.stream) }

/-- One step of the block with a decoder and a dispatch (R66): a state with a record has no step (R87), else the head of the
stream is taken and run, or refused by the decoder. -/
def stepBy (dec : List Byte → Decoded) (run : Instr → State → Host.Outcome State Fault Refusal) (s : State) :
    Host.Outcome State Fault Refusal :=
  match s.faultRecord, s.refusedMark with
  | some r, _ => .fault (.recorded r)
  | none, some code => .refused (.marked code)
  | none, none =>
    match dec s.stream with
    | .instr i rest => run i { s with stream := rest }
    | .refused code => .next (refuseFetched code s)
    | .truncated => .refused .truncatedStimulus
    | .empty => .refused .noStimulus

/-- The bytes of one table word, as long as R74 says for its control word, put before the stream. -/
def pushTableWord (stream : List Byte) (nbits w : Nat) : List Byte :=
  (tableBytes nbits w).take (headBytes (tableBytes nbits w)) ++ stream

end Sys2Proof.Machine
end

