-- ==== Sys2Proof/Machine/Step.lean ====
section
/-! DEFINITION. One step of the block: the next stimulus of the stream (R66), with no step where a record is set (R87). -/

namespace Sys2Proof.Machine

/-- One step with the spec's defaults (log 3). -/
def step (s : State) : Host.Outcome State Fault Refusal := stepBy decode exec s

/-- The state with one table word's stimulus put at the head of the stream, so that the next step runs it (log 1). -/
def State.withFetchWord (s : State) (nbits w : Nat) : State :=
  { s with stream := pushTableWord s.stream nbits w }

end Sys2Proof.Machine
end

