-- ==== Sys2Proof/Machine/Agents.lean ====
section
/-! DEFINITION. The agents of R9, which stimuli each issues (R65), and when each has a step (R84 to R87). -/

namespace Sys2Proof.Machine

/-- The four agents of R9. -/
inductive Agent where
  | timer
  | adc
  | host
  | env
  deriving DecidableEq, Repr

/-- The agent that issues a stimulus (R65, R68), `none` for RESET, which comes from outside the agents (R9). -/
def agentOf (i : Instr) : Option Agent :=
  match i with
  | .rdBtnState | .rdBtnHist | .rdRounds | .rdStatus | .rdTimeMs | .rdTickCount | .rdSubtick | .rdAdcLast
  | .rdTier | .rdScrollMs | .rdJumpMs | .rdPwmCmp | .rdPwmCnt | .rdBuserr _ => some .host
  | .wrRounds _ | .wrRoundsDec _ | .wrStatus _ | .wrTier _ | .wrPwmCmp _ | .wrBuserr _ _ => some .host
  | .evtSubclk _ => some .timer
  | .evtAdcReady _ => some .adc
  | .evtReset => none

/-- No record is set (R45): the premise every claim about a run takes (R150). -/
def State.clean (s : State) : Bool := s.faultRecord.isNone && s.refusedMark.isNone

/-- Whether an agent has a step (R84, R85, R87). ENV never has one (R9). -/
def Agent.enabled (a : Agent) (s : State) : Bool :=
  match a with
  | .timer => s.clean
  | .adc => s.clean && s.regs.busy
  | .host => s.clean && !s.regs.busy
  | .env => false

/-- A quiescent state: no agent has a step (R87). -/
def State.quiescent (s : State) : Bool :=
  !(Agent.timer.enabled s || Agent.adc.enabled s || Agent.host.enabled s || Agent.env.enabled s)

/-- An agent offers a stimulus to the block: `none` is the `stall` of R14, the agent has no enabled step now and the
stimulus waits unchanged (R85). RESET is taken wherever no record is set (R170). -/
def offer (i : Instr) (s : State) : Option (Host.Outcome State Fault Refusal) :=
  match agentOf i with
  | some a => if a.enabled s then some (exec i s) else none
  | none => if s.clean then some (exec i s) else none

end Sys2Proof.Machine
end

