-- ==== Sys2Proof/Machine/Pseudo.lean ====
section
/-! DEFINITION. The pseudo-instructions of R76 and their expansions. -/

namespace Sys2Proof.Machine

/-- The pseudo-instructions of R76. -/
inductive Pseudo where
  | tick (raw : BitVec 3) (v : Half)
  | ticks (n : Nat) (raw : BitVec 3) (v : Half)
  | idle (k : Nat)
  | decRounds
  | clrAbort
  | setRounds (n : Nat)
  deriving DecidableEq, Repr

/-- `tick raw, v` from SUBTICK = `subtick`: the SUBCLKs up to the wrap, then the ADC_READY (R76). -/
def tickStimuli (p : Params) (subtick : Nat) (raw : BitVec 3) (v : Half) : List Instr :=
  List.replicate (p.top - subtick) (.evtSubclk raw) ++ [.evtAdcReady v]

/-- The expansion of a pseudo-instruction at a state, `none` where its condition does not hold (R76). -/
def Pseudo.expand (p : Params) (s : State) (q : Pseudo) : Option (List Instr) :=
  match q with
  | .tick raw v => if s.regs.busy then none else some (tickStimuli p s.regs.subtick.toNat raw v)
  | .ticks 0 _ _ => some []
  | .ticks (n + 1) raw v =>
    if s.regs.busy then none
    else some (tickStimuli p s.regs.subtick.toNat raw v ++ (List.replicate n (tickStimuli p 0 raw v)).flatten)
  | .idle k => if s.regs.subtick.toNat + k ≤ p.top - 1 then some (List.replicate k (.evtSubclk 0b000)) else none
  | .decRounds => some [.wrRoundsDec 0]
  | .clrAbort => some [.wrStatus 1]
  | .setRounds n => if n ≤ 65535 then some [.wrRounds (BitVec.ofNat 32 n)] else none

end Sys2Proof.Machine
end

