-- ==== Sys2Proof/Machine/Assembler.lean ====
section
/-! DEFINITION. The textual syntax of a stimulus (R75) and of a pseudo-instruction (R76), read from a list of characters, and the text of a response. -/

namespace Sys2Proof.Machine

/-- A register's name as R22 spells it. -/
def Register.name (r : Register) : List Char :=
  match r with
  | .btnState => ['B', 'T', 'N', '_', 'S', 'T', 'A', 'T', 'E']
  | .btnHist => ['B', 'T', 'N', '_', 'H', 'I', 'S', 'T']
  | .rounds => ['R', 'O', 'U', 'N', 'D', 'S']
  | .roundsDec => ['R', 'O', 'U', 'N', 'D', 'S', '_', 'D', 'E', 'C']
  | .status => ['S', 'T', 'A', 'T', 'U', 'S']
  | .timeMs => ['T', 'I', 'M', 'E', '_', 'M', 'S']
  | .tickCount => ['T', 'I', 'C', 'K', '_', 'C', 'O', 'U', 'N', 'T']
  | .subtick => ['S', 'U', 'B', 'T', 'I', 'C', 'K']
  | .adcLast => ['A', 'D', 'C', '_', 'L', 'A', 'S', 'T']
  | .tier => ['T', 'I', 'E', 'R']
  | .scrollMs => ['S', 'C', 'R', 'O', 'L', 'L', '_', 'M', 'S']
  | .jumpMs => ['J', 'U', 'M', 'P', '_', 'M', 'S']
  | .pwmCmp => ['P', 'W', 'M', '_', 'C', 'M', 'P']
  | .pwmCnt => ['P', 'W', 'M', '_', 'C', 'N', 'T']

/-! ### Tokens and numbers -/

/-- The tokens of a line: maximal runs of characters other than space, tab and comma, up to a comment sign `;` (R75).
`acc` is the token being read, reversed. -/
def tokensFrom (acc : List Char) : List Char → List (List Char)
  | [] => if acc.isEmpty then [] else [acc.reverse]
  | c :: cs =>
    if c = ';' then (if acc.isEmpty then [] else [acc.reverse])
    else if c = ' ' ∨ c = '\t' ∨ c = ',' then
      (if acc.isEmpty then tokensFrom [] cs else acc.reverse :: tokensFrom [] cs)
    else tokensFrom (c :: acc) cs

/-- The value of one digit, either case (log 18). -/
def digitValue (c : Char) : Option Nat :=
  if '0' ≤ c ∧ c ≤ '9' then some (c.toNat - 48)
  else if 'a' ≤ c ∧ c ≤ 'f' then some (c.toNat - 87)
  else if 'A' ≤ c ∧ c ≤ 'F' then some (c.toNat - 55)
  else none

/-- The number a run of digits spells in a base, `none` where a character is no digit of it. -/
def digitsValue (base : Nat) : Nat → List Char → Option Nat
  | acc, [] => some acc
  | acc, c :: cs =>
    match digitValue c with
    | some d => if d < base then digitsValue base (acc * base + d) cs else none
    | none => none

/-- A decimal, hexadecimal (`0x`) or binary (`0b`) literal (R13). -/
def numberOf (t : List Char) : Option Nat :=
  match t with
  | '0' :: 'x' :: d :: ds => digitsValue 16 0 (d :: ds)
  | '0' :: 'b' :: d :: ds => digitsValue 2 0 (d :: ds)
  | d :: ds => digitsValue 10 0 (d :: ds)
  | [] => none

/-- A literal below `2 ^ w`. -/
def immediate (w : Nat) (t : List Char) : Option (BitVec w) :=
  match numberOf t with
  | some n => if n < 2 ^ w then some (BitVec.ofNat w n) else none
  | none => none

/-- `0bXYZ`, three binary digits, most significant (ABORT) leftmost (R75). -/
def rawOperand (t : List Char) : Option (BitVec 3) :=
  match t with
  | ['0', 'b', _, _, _] => immediate 3 t
  | _ => none

/-- A register name, or `@0xOO` for a raw offset (R75). -/
def offsetOperand (t : List Char) : Option Byte :=
  match t with
  | ['@', '0', 'x', a, b] => immediate 8 ['0', 'x', a, b]
  | _ => (registers.find? fun r => r.name == t).map Register.offset

/-! ### Lines -/

/-- A line of text: nothing, the control and data words of a stimulus, or a pseudo-instruction. -/
inductive Line where
  | blank
  | words (control : Half) (data : Option Word)
  | pseudo (q : Pseudo)
  deriving DecidableEq, Repr

/-- The line the tokens spell (R75, R76), `none` where they spell none. DESIGN CHOICE (log 18): a line that is read carries no
response. R75 has the response written after `->` and does not say whether a line to be read may carry it, as `rd TIER ->
0x00000000` in V-RS1 does, so such a line is `none` here. -/
def lineOf (tokens : List (List Char)) : Option Line :=
  match tokens with
  | [] => some .blank
  | [['r', 'd'], t] => (offsetOperand t).map fun o => .words ((0x00 : Byte) ++ o) none
  | [['w', 'r'], t, v] =>
    match offsetOperand t, immediate 32 v with
    | some o, some d => some (.words ((0x40 : Byte) ++ o) (some d))
    | _, _ => none
  | [['s', 'u', 'b', 'c', 'l', 'k']] => some (.words 0x8001 (some 0))
  | [['s', 'u', 'b', 'c', 'l', 'k'], r] => (rawOperand r).map fun raw => .words 0x8001 (some (raw.setWidth 32))
  | [['a', 'd', 'c', 'r', 'd', 'y'], v] => (immediate 32 v).map fun d => .words 0x8002 (some d)
  | [['r', 'e', 's', 'e', 't']] => some (.words 0x8003 (some 0))
  | [['t', 'i', 'c', 'k'], r, v] =>
    match rawOperand r, immediate 16 v with
    | some raw, some d => some (.pseudo (.tick raw d))
    | _, _ => none
  | [['t', 'i', 'c', 'k', 's'], n, r, v] =>
    match numberOf n, rawOperand r, immediate 16 v with
    | some k, some raw, some d => some (.pseudo (.ticks k raw d))
    | _, _, _ => none
  | [['i', 'd', 'l', 'e'], k] => (numberOf k).map fun k => .pseudo (.idle k)
  | [['d', 'e', 'c', '_', 'r', 'o', 'u', 'n', 'd', 's']] => some (.pseudo .decRounds)
  | [['c', 'l', 'r', '_', 'a', 'b', 'o', 'r', 't']] => some (.pseudo .clrAbort)
  | [['s', 'e', 't', '_', 'r', 'o', 'u', 'n', 'd', 's'], n] => (numberOf n).map fun n => .pseudo (.setRounds n)
  | _ => none

/-- Reading one line of text (R75, R76). -/
def parseLine (text : List Char) : Option Line := lineOf (tokensFrom [] text)

/-- The bytes a line stands for at a state: its words, or the expansion of its pseudo-instruction (R76). -/
def assembleLine (p : Params) (s : State) (l : Line) : Option (List Byte) :=
  match l with
  | .blank => some []
  | .words control data => some (bytesOfHalf control ++ match data with
    | some d => bytesOfWord d
    | none => [])
  | .pseudo q => (q.expand p s).map encodeAll

/-! ### Responses -/

/-- A hexadecimal digit, capital letters (R13). -/
def hexDigit (n : Nat) : Char := if n < 10 then Char.ofNat (48 + n) else Char.ofNat (55 + n)

/-- The `k` hexadecimal digits of a number, most significant first. -/
def hexDigits : Nat → Nat → List Char
  | 0, _ => []
  | k + 1, n => hexDigit (n / 16 ^ k % 16) :: hexDigits k n

/-- The name of a fault code (R150), which a response's text uses by the model's choice (log 18). -/
def FaultCode.name (c : FaultCode) : List Char :=
  match c with
  | .busUnmapped => ['B', 'U', 'S', '_', 'U', 'N', 'M', 'A', 'P', 'P', 'E', 'D']
  | .busMisaligned => ['B', 'U', 'S', '_', 'M', 'I', 'S', 'A', 'L', 'I', 'G', 'N', 'E', 'D']
  | .busRoWrite => ['B', 'U', 'S', '_', 'R', 'O', '_', 'W', 'R', 'I', 'T', 'E']
  | .busWoRead => ['B', 'U', 'S', '_', 'W', 'O', '_', 'R', 'E', 'A', 'D']
  | .tickOverrun => ['T', 'I', 'C', 'K', '_', 'O', 'V', 'E', 'R', 'R', 'U', 'N']

/-- A response as R75 writes it after a stimulus: `-> 0xVVVVVVVV`, `-> ERR(code)`, and nothing for the OK of a write.
DESIGN CHOICE (log 18): R75 does not say whether `code` is the name or the number R150 gives the code, and the name is
written here. R75 gives the OK of a write no text either. -/
def Response.text (r : Response) : List Char :=
  match r with
  | .data v => ['-', '>', ' ', '0', 'x'] ++ hexDigits 8 v.toNat
  | .err c => ['-', '>', ' ', 'E', 'R', 'R', '('] ++ c.name ++ [')']
  | .ok => []

end Sys2Proof.Machine
end

