-- ==== Sys2Proof/Machine/Parametric.lean ====
section
/-! DEFINITION. The machine with the parameters of R11 as arguments fixed for the whole run (R46). The machine behind the host's interface is the one at the spec's defaults (log 3). -/

namespace Sys2Proof.Machine

/-- The dispatch with the parameters `p`: the meanings that no parameter enters, and the operations of the five it enters
(TIME_MS, TIER, SUBCLK, ADC_READY, RESET). -/
def execWith (p : Params) (i : Instr) (s : State) : Host.Outcome State Fault Refusal :=
  match i with
  | .rdBtnState => execRdBtnState s
  | .rdBtnHist => execRdBtnHist s
  | .rdRounds => execRdRounds s
  | .rdStatus => execRdStatus s
  | .rdTimeMs => readTimeMs p s
  | .rdTickCount => execRdTickCount s
  | .rdSubtick => execRdSubtick s
  | .rdAdcLast => execRdAdcLast s
  | .rdTier => execRdTier s
  | .rdScrollMs => execRdScrollMs s
  | .rdJumpMs => execRdJumpMs s
  | .rdPwmCmp => execRdPwmCmp s
  | .rdPwmCnt => execRdPwmCnt s
  | .wrRounds data => execWrRounds data s
  | .wrRoundsDec data => execWrRoundsDec data s
  | .wrStatus data => execWrStatus data s
  | .wrTier data => writeTier p data s
  | .wrPwmCmp data => execWrPwmCmp data s
  | .evtSubclk raw => .next (subclk p raw s)
  | .evtAdcReady result => .next (adcReady p result s)
  | .evtReset => .next (resetBlock p s)
  | .rdBuserr ofs => execRdBuserr ofs s
  | .wrBuserr ofs data => execWrBuserr ofs data s

/-- One step with the parameters `p`. -/
def stepWith (p : Params) (s : State) : Host.Outcome State Fault Refusal := stepBy (decodeWith p) (execWith p) s

/-- The machine with the parameters `p`. Its reset state is the same for every choice (R42). -/
def coreWith (p : Params) : Host.Core where
  State := State
  Fault := Fault
  Refusal := Refusal
  step := stepWith p
  reset := State.reset

end Sys2Proof.Machine
end

