-- ==== Sys2Proof/Machine/Ports.lean ====
section
/-! DEFINITION. The ports of the block: the outputs of R41 as views of a state, and the inputs of R40 as the stimuli of one clock edge (R156). -/

namespace Sys2Proof.Machine

/-! ### Output ports (R41) -/

/-- `pwm_out`, equal to PWM_CNT.OUT at all times (R119). -/
def State.pwmOut (s : State) : Bool := outLevel s.regs.pwmCnt s.regs.pwmCmp

/-- `abort_pend`, equal to STATUS.ABORT_PEND. -/
def State.abortPendOut (s : State) : Bool := s.regs.abortPend

/-- `wait` of the host bus: an issued access waits while BUSY = 1 (R85). -/
def State.waitOut (s : State) (req : Bool) : Bool := req && s.regs.busy

/-- `adc_start`. -/
def State.adcStartOut (s : State) : Bool := s.out.adcStart

/-- `exit_stb`. -/
def State.exitStb (s : State) : Bool := s.out.exitStb

/-- `adv_stb`. -/
def State.advStb (s : State) : Bool := s.out.advStb

/-- `relabel_stb`. -/
def State.relabelStb (s : State) : Bool := s.out.relabel.isSome

/-- `relabel_tier`, meaningful with `relabel_stb`. -/
def State.relabelTier (s : State) : Option (BitVec 2) := s.out.relabel

/-- `rdata`, of a completed read. -/
def State.rdata (s : State) : Option Word :=
  match s.out.response with
  | some (.data v) => some v
  | _ => none

/-- `err`, the error response of a bus error. -/
def State.err (s : State) : Bool :=
  match s.out.response with
  | some (.err _) => true
  | _ => false

/-! ### Input ports (R40) -/

/-- A host bus request: `ofs`, `we`, `wdata`. -/
structure BusRequest where
  ofs : Byte
  we : Bool
  wdata : Word
  deriving DecidableEq, Repr

/-- The input ports at one clock edge. `req` of the host bus is `bus` being present. -/
structure Inputs where
  rst : Bool
  subclkEn : Bool
  rawPin : BitVec 3
  adcReady : Bool
  adcResult : Half
  bus : Option BusRequest
  deriving DecidableEq, Repr

/-- The stimulus of a host bus request (R66). -/
def BusRequest.stimulus (b : BusRequest) : Instr :=
  if b.we then decodeWrite b.ofs b.wdata else decodeRead b.ofs

/-- The stimuli that coincide at one clock edge, in the order of R156 (a): RESET, SUBCLK, ADC_READY, host access. Each is
offered in its turn, and one whose agent has no step then waits (`offer` in Agents, R85). -/
def Inputs.stimuli (p : Inputs) : List Instr :=
  (if p.rst then [.evtReset] else []) ++
  (if p.subclkEn then [.evtSubclk p.rawPin] else []) ++
  (if p.adcReady then [.evtAdcReady p.adcResult] else []) ++
  (p.bus.map BusRequest.stimulus).toList

end Sys2Proof.Machine
end

