-- ==== Sys2Proof/Safety.lean ====
section
/-! DEFINITION. What counts as a safe run, in the terms the statements use: the invariants of R43, the overrun, the environment's obligation of R84, runs and the fairness of R88, and what a completed access leaves alone. -/

namespace Sys2Proof.Machine

/-- The invariants (a), (b) and (c) of R43, and that the sample fits ADC_BITS (R31). -/
structure Regs.Inv (p : Params) (r : Regs) : Prop where
  prevIsDb : r.adv.prev = r.adv.db ∧ r.jump.prev = r.jump.db ∧ r.abort.prev = r.abort.db
  subtickBelowTop : r.subtick.toNat < p.top
  pairIsTable : (r.scrollMs, r.jumpMs) = tierTable p r.tier
  sampleFits : r.adcLast.toNat < 2 ^ p.adcBits

/-- A TICK_OVERRUN is recorded: the hardware state is unspecified (R160). -/
def State.overrun (s : State) : Bool :=
  match s.faultRecord with
  | some r => r.code == .tickOverrun
  | none => false

/-- The invariant of a state between two stimuli (R43). After an overrun nothing is said of the registers (R160). -/
def State.Inv (p : Params) (s : State) : Prop := s.overrun = false → s.regs.Inv p

/-- The environment keeps the latency bound at this stimulus (R84): while a conversion is pending, a SUBCLK comes only
while fewer than ADC_LAT_MAX have come since phase A. SUBTICK counts them, since phase A leaves it 0. -/
def obeysLatency (p : Params) (i : Instr) (s : State) : Prop :=
  ∀ raw, i = .evtSubclk raw → s.regs.busy = true → s.regs.subtick.toNat < p.adcLatMax

/-- At most ADC_LAT_MAX SUBCLKs have come since the phase A of the pending conversion (R84). -/
def State.latencyKept (p : Params) (s : State) : Prop :=
  s.regs.busy = true → s.regs.subtick.toNat ≤ p.adcLatMax

/-- The records of R44 and R45 and the rest of the stream are as before. -/
def SameRecords (s t : State) : Prop :=
  t.history = s.history ∧ t.faultRecord = s.faultRecord ∧ t.refusedMark = s.refusedMark ∧ t.stream = s.stream

/-- A read completes: it answers the value, and every register and record is as before (R54, R124). -/
def ReadCompletes (i : Instr) (s : State) (v : Word) : Prop :=
  ∃ t, exec i s = .next t ∧ t.out.response = some (.data v) ∧ t.regs = s.regs ∧ SameRecords s t

/-- A write completes: it answers OK, the registers are `r` and every record is as before (R124). -/
def WriteCompletes (i : Instr) (s : State) (r : Regs) : Prop :=
  ∃ t, exec i s = .next t ∧ t.out.response = some .ok ∧ t.regs = r ∧ SameRecords s t

/-- A bus error access: the `err` response, every register as before, and the fault record holds the code, the stimulus's
control word and data word, and TICK_COUNT (R143, R150, R160). A bus read has no data word (log 9). -/
def BusErrorTaken (i : Instr) (s : State) (code : FaultCode) (control : Half) (data : Option Word) : Prop :=
  ∃ t r, exec i s = .next t ∧ t.out.response = some (.err code) ∧ t.regs = s.regs ∧ t.history = s.history ∧
    t.refusedMark = s.refusedMark ∧ t.faultRecord = some r ∧ r.code = code ∧ r.control = control ∧ r.data = data ∧
    r.tickCount = s.regs.tickCount

/-- A stimulus is refused: the mark holds the code and everything else is as before (R73). -/
def Refuses (i : Instr) (s : State) (code : RefusalCode) : Prop :=
  exec i s = .next { s with refusedMark := some code }

/-- A run with no RESET, no overrun and no wrap of TICK_COUNT: the premise of R113. -/
inductive NoWrapRun : State → State → Prop where
  | refl (s : State) : NoWrapRun s s
  | step {s u t : State} (before : NoWrapRun s u) (next : step u = .next t)
      (noReset : ∀ rest, fetch u ≠ .instr .evtReset rest) (noOverrun : t.overrun = false)
      (noWrap : u.regs.tickCount.toNat ≤ t.regs.tickCount.toNat) : NoWrapRun s t

/-! ### Runs as sequences of stimuli (R86, R88) -/

/-- The stimulus is a tick: a SUBCLK that wraps with no conversion pending (R16, R80). -/
def isTick (p : Params) (i : Instr) (s : State) : Bool :=
  agentOf i == some .timer && !decide (s.regs.subtick.toNat < p.top - 1) && !s.regs.busy

/-- The first `n` stimuli of `stim` run through `states`. A run has no state with a record, since no step leads on from one
(R87), so a run of every length is an infinite run, and no overrun is in it. -/
def IsRun (p : Params) (stim : Nat → Instr) (states : Nat → State) (n : Nat) : Prop :=
  ∀ k < n, (states k).clean = true ∧ execWith p (stim k) (states k) = .next (states (k + 1)) ∧
    (states (k + 1)).clean = true

/-- Weak fairness of TIMER (R88): SUBCLK occurs infinitely often. -/
def TimerFair (stim : Nat → Instr) : Prop := ∀ n, ∃ k, n ≤ k ∧ agentOf (stim k) = some .timer

/-- Which of the first `n` stimuli of a run are ticks, in order. -/
def ticksOf (p : Params) (stim : Nat → Instr) (states : Nat → State) (n : Nat) : List Nat :=
  (List.range n).filter fun k => isTick p (stim k) (states k)

/-- The number of a channel (R10, R91). -/
def Chan.number (c : Chan) : Nat :=
  match c with
  | .adv => 0
  | .jump => 1
  | .abort => 2

/-- TIME_MS as a host would read it now (R112). -/
def State.timeMs (s : State) : Nat := (Machine.timeMs Config.params s.regs.tickCount s.regs.subtick).toNat

/-- The samples a shift history holds, oldest first (R92: bit k is the sample taken k ticks ago). -/
def historySamples (h : BitVec 5) : List Bool :=
  [h.getLsbD 4, h.getLsbD 3, h.getLsbD 2, h.getLsbD 1, h.getLsbD 0]

/-- A channel after a sequence of samples, oldest first, one a tick (R92 to R94). -/
def Channel.samples (c : Channel) (rs : List Bool) : Channel := rs.foldl Channel.sample c

/-- A relabel request (R44). -/
def Event.isRelabel (e : Event) : Bool :=
  match e with
  | .relabel _ _ => true
  | .adcStart _ | .advanceEdge _ | .exitDisplay _ | .reset => false

end Sys2Proof.Machine
end

