-- ==== Sys2Proof/Certificates/Slice0/Obligations.lean ====
section
/-! DEFINITION. The statements about the model, each from the numbered rules its docstring names. Nothing is proved here. -/

open Sys2Proof Sys2Proof.Machine

/-! ### The stimulus stream and its encoding -/

/-- Where no record is set and the stream decodes to a stimulus, one step is that stimulus with the stream moved past it
(R66; the stream in the state is the model's choice, log 1). -/
def Obligations.StepRunsDecodedStimulus : Prop :=
  ∀ (s : State) (i : Instr) (rest : List Byte), s.clean = true → decode s.stream = .instr i rest →
    step s = exec i { s with stream := rest }

/-- Words of the spec's own tables decode to the stimuli they stand for (R77 and vectors V-EN11 to V-EN17; the byte order is
the model's choice, log 2). -/
def Obligations.SpecWordsDecode : Prop :=
  decode [0x14, 0x00] = .instr .rdTimeMs [] ∧
  decode [0x0C, 0x00] = .instr (.rdBuserr 0x0C) [] ∧
  decode [0x15, 0x00] = .instr (.rdBuserr 0x15) [] ∧
  decode [0x30, 0x40, 0x80, 0x00, 0x00, 0x00] = .instr (.wrPwmCmp 0x00000080) [] ∧
  decode [0x2C, 0x40, 0x01, 0x00, 0x00, 0x00] = .instr (.wrBuserr 0x2C 0x00000001) [] ∧
  decode [0x01, 0x80, 0x05, 0x00, 0x00, 0x00] = .instr (.evtSubclk 0b101) [] ∧
  decode [0x02, 0x80, 0x58, 0x02, 0x00, 0x00] = .instr (.evtAdcReady 600) [] ∧
  decode [0x03, 0x80, 0x00, 0x00, 0x00, 0x00] = .instr .evtReset [] ∧
  decode [0x00, 0xC0] = .refused .illClass ∧
  decode [0x00, 0x01] = .refused .rsvCtrl

/-- Decoding an encoded well-formed stimulus gives it back, whatever follows it (R62, R63, R70). -/
def Obligations.DecodeOfEncode : Prop :=
  ∀ (i : Instr) (rest : List Byte), i.wellFormed = true → decode (encode i ++ rest) = .instr i rest

/-- Each word has one meaning: what the decoder accepts is a well-formed stimulus, and the bytes are exactly its encoding
(R70, R74). -/
def Obligations.EncodeOfDecode : Prop :=
  ∀ (bytes : List Byte) (i : Instr) (rest : List Byte), decode bytes = .instr i rest →
    i.wellFormed = true ∧ bytes = encode i ++ rest

/-- The reserved and illegal encodings of R72, and that every RD or WR word with RSV = 0 is well formed. -/
def Obligations.ReservedEncodingsRefused : Prop :=
  ∀ (c : Half) (d : Word) (rest : List Byte),
    (c.toNat / 2 ^ 14 = 3 → decode (bytesOfHalf c ++ bytesOfWord d ++ rest) = .refused .illClass) ∧
    (c.toNat / 2 ^ 14 ≠ 3 → c.toNat / 2 ^ 8 % 2 ^ 6 ≠ 0 →
      decode (bytesOfHalf c ++ bytesOfWord d ++ rest) = .refused .rsvCtrl) ∧
    (c.toNat / 2 ^ 8 = 0x80 → c.toNat % 2 ^ 8 ≠ 1 → c.toNat % 2 ^ 8 ≠ 2 → c.toNat % 2 ^ 8 ≠ 3 →
      decode (bytesOfHalf c ++ bytesOfWord d ++ rest) = .refused .unknownEvent) ∧
    (c = 0x8001 → 2 ^ 3 ≤ d.toNat → decode (bytesOfHalf c ++ bytesOfWord d ++ rest) = .refused .evtDataRsv) ∧
    (c = 0x8002 → 2 ^ 10 ≤ d.toNat → decode (bytesOfHalf c ++ bytesOfWord d ++ rest) = .refused .evtDataRsv) ∧
    (c = 0x8003 → d ≠ 0 → decode (bytesOfHalf c ++ bytesOfWord d ++ rest) = .refused .evtDataRsv) ∧
    (c.toNat / 2 ^ 8 = 0x00 → ∃ i, i.wellFormed = true ∧
      decode (bytesOfHalf c ++ bytesOfWord d ++ rest) = .instr i (bytesOfWord d ++ rest)) ∧
    (c.toNat / 2 ^ 8 = 0x40 → ∃ i, i.wellFormed = true ∧
      decode (bytesOfHalf c ++ bytesOfWord d ++ rest) = .instr i rest)

/-- A stimulus the decoder refuses sets the refused mark and changes no register, port or history, and the run ends there
(R45, R73). That this is a next state which has no step is log 7, and that the ports are held in it is the model's choice
(log 8). The stream moves past the refused stimulus (log 12), and this says nothing of it. -/
def Obligations.RefusedStimulusSetsMark : Prop :=
  ∀ (s : State) (code : RefusalCode), s.clean = true → decode s.stream = .refused code →
    ∃ t, step s = .next t ∧ t.refusedMark = some code ∧ t.faultRecord = none ∧ t.regs = s.regs ∧ t.out = s.out ∧
      t.history = s.history ∧ step t = .refused (.marked code)

/-- The worked encodings of R77, from their text (R75). -/
def Obligations.WorkedTextAssembles : Prop :=
  parseLine ['r', 'd', ' ', 'T', 'I', 'M', 'E', '_', 'M', 'S'] = some (.words 0x0014 none) ∧
  parseLine ['w', 'r', ' ', 'P', 'W', 'M', '_', 'C', 'M', 'P', ',', ' ', '0', 'x', '8', '0'] =
    some (.words 0x4030 (some 0x00000080)) ∧
  parseLine ['s', 'u', 'b', 'c', 'l', 'k', ' ', '0', 'b', '1', '0', '1'] = some (.words 0x8001 (some 0x00000005)) ∧
  parseLine ['a', 'd', 'c', 'r', 'd', 'y', ' ', '6', '0', '0'] = some (.words 0x8002 (some 0x00000258)) ∧
  parseLine ['r', 'e', 's', 'e', 't'] = some (.words 0x8003 (some 0x00000000))

/-! ### Records, agents, register map -/

/-- A state with a record has no step of any agent (R87), and a busy state without one is not quiescent. -/
def Obligations.RecordedStateHasNoStep : Prop :=
  ∀ s : State,
    (s.clean = false → s.quiescent = true ∧ (∀ i, offer i s = none) ∧ ∀ t, step s ≠ .next t) ∧
    (s.clean = true → s.regs.busy = true → s.quiescent = false)

/-- Once set, a record is never cleared, not even by RESET (R45). -/
def Obligations.RecordsNeverCleared : Prop :=
  ∀ (i : Instr) (s t : State), exec i s = .next t →
    (s.faultRecord.isSome = true → t.faultRecord.isSome = true) ∧
    (s.refusedMark.isSome = true → t.refusedMark.isSome = true)

/-- The event history is append-only (R44). -/
def Obligations.HistoryOnlyGrows : Prop :=
  ∀ s t : State, step s = .next t → ∃ es, t.history = s.history ++ es

/-- The host has a step exactly while BUSY = 0 and no record is set; while BUSY = 1 its access waits, is refused in a stream,
and is taken unchanged after the ADC_READY that clears BUSY (R85, R73). That a refusal is a next state with only the mark set
is log 7, that the ports are held in it log 8, and that a waiting access stands outside the stream log 10. -/
def Obligations.HostHeldWhileBusy : Prop :=
  ∀ s : State,
    (Agent.host.enabled s = true ↔ s.regs.busy = false ∧ s.clean = true) ∧
    (∀ i, agentOf i = some .host → s.regs.busy = true →
      s.waitOut true = true ∧ offer i s = none ∧ Refuses i s .hostWhileBusy ∧
      ∀ v t, s.clean = true → v.toNat < 2 ^ 10 → exec (.evtAdcReady v) s = .next t → offer i t = some (exec i t))

/-- An access is free of bus errors exactly at the offsets of the exact rows (R22, R49, R51, R70). -/
def Obligations.MappedOffsetsAreTheExactRows : Prop :=
  ∀ ofs : Byte, (busFault .rd ofs = none ↔ ofs ∈ exactReadOffsets) ∧ (busFault .wr ofs = none ↔ ofs ∈ exactWriteOffsets)

/-- Every RD and WR word does what the one access procedure of R124 does at its offset (the procedure is `hostAccess`). -/
def Obligations.HostRowsFollowAccessProcedure : Prop :=
  ∀ (s : State) (ofs : Byte) (data : Word),
    exec (decodeRead ofs) s = .next (hostAccess Config.params .rd ofs 0 s) ∧
    exec (decodeWrite ofs data) s = .next (hostAccess Config.params .wr ofs data s)

/-! ### Host reads -/

/-- RD.BTN_STATE and RD.BTN_HIST (R125, R126). -/
def Obligations.ButtonReads : Prop :=
  ∀ s : State, s.regs.busy = false →
    ReadCompletes .rdBtnState s (BitVec.ofNat 32
      (s.regs.adv.db.toNat + 2 * s.regs.jump.db.toNat + 4 * s.regs.abort.db.toNat +
        16 * s.regs.adv.prev.toNat + 32 * s.regs.jump.prev.toNat + 64 * s.regs.abort.prev.toNat)) ∧
    ReadCompletes .rdBtnHist s (BitVec.ofNat 32
      (s.regs.adv.hist.toNat + 2 ^ 8 * s.regs.jump.hist.toNat + 2 ^ 16 * s.regs.abort.hist.toNat))

/-- RD.ROUNDS and RD.STATUS (R127, R128). -/
def Obligations.RoundsAndStatusReads : Prop :=
  ∀ s : State, s.regs.busy = false →
    ReadCompletes .rdRounds s (BitVec.ofNat 32 s.regs.rounds.toNat) ∧
    ReadCompletes .rdStatus s (if s.regs.abortPend = true then 1 else 0)

/-- RD.TIME_MS, RD.TICK_COUNT and RD.SUBTICK (R129, R130, R131), TIME_MS by the formula of R112 at the default TOP and F_SUB
of R11, which the machine stands at by log 3. -/
def Obligations.TimebaseReads : Prop :=
  ∀ s : State, s.regs.busy = false →
    ReadCompletes .rdTimeMs s
      (BitVec.ofNat 32 ((s.regs.tickCount.toNat * 256 + s.regs.subtick.toNat) * 1000 / 2000000)) ∧
    ReadCompletes .rdTickCount s s.regs.tickCount ∧
    ReadCompletes .rdSubtick s (BitVec.ofNat 32 s.regs.subtick.toNat)

/-- RD.ADC_LAST, RD.TIER, RD.SCROLL_MS and RD.JUMP_MS (R132 to R135). -/
def Obligations.AnalogReads : Prop :=
  ∀ s : State, s.regs.busy = false →
    ReadCompletes .rdAdcLast s (BitVec.ofNat 32 s.regs.adcLast.toNat) ∧
    ReadCompletes .rdTier s (BitVec.ofNat 32 s.regs.tier.toNat) ∧
    ReadCompletes .rdScrollMs s (BitVec.ofNat 32 s.regs.scrollMs.toNat) ∧
    ReadCompletes .rdJumpMs s (BitVec.ofNat 32 s.regs.jumpMs.toNat)

/-- RD.PWM_CMP and RD.PWM_CNT (R136, R137), OUT in bit 8. -/
def Obligations.PwmReads : Prop :=
  ∀ s : State, s.regs.busy = false →
    ReadCompletes .rdPwmCmp s (BitVec.ofNat 32 s.regs.pwmCmp.toNat) ∧
    ReadCompletes .rdPwmCnt s (BitVec.ofNat 32
      (s.regs.pwmCnt.toNat + if s.regs.pwmCnt.toNat < s.regs.pwmCmp.toNat then 2 ^ 8 else 0))

/-! ### Host writes -/

/-- WR.ROUNDS takes DATA[15:0] and ignores the rest (R138). -/
def Obligations.WriteRounds : Prop :=
  ∀ (s : State) (data : Word), s.regs.busy = false →
    WriteCompletes (.wrRounds data) s { s.regs with rounds := BitVec.ofNat 16 (data.toNat % 2 ^ 16) }

/-- WR.ROUNDS_DEC is one saturating decrement, whatever DATA is (R139). -/
def Obligations.WriteRoundsDec : Prop :=
  ∀ (s : State) (data : Word), s.regs.busy = false →
    WriteCompletes (.wrRoundsDec data) s { s.regs with rounds := BitVec.ofNat 16 (s.regs.rounds.toNat - 1) }

/-- WR.STATUS clears ABORT_PEND with DATA[0] = 1 and leaves it with 0 (R140). -/
def Obligations.WriteStatus : Prop :=
  ∀ (s : State) (data : Word), s.regs.busy = false →
    WriteCompletes (.wrStatus data) s
      { s.regs with abortPend := if data.toNat % 2 = 1 then false else s.regs.abortPend }

/-- WR.TIER loads the code DATA[1:0] and its pair from the table of R105, and emits no Relabel (R141). -/
def Obligations.WriteTier : Prop :=
  ∀ (s : State) (data : Word), s.regs.busy = false →
    (data.toNat % 4 = 0 → WriteCompletes (.wrTier data) s { s.regs with tier := 0, scrollMs := 300, jumpMs := 500 }) ∧
    (data.toNat % 4 = 1 → WriteCompletes (.wrTier data) s
      { s.regs with tier := 1, scrollMs := Config.medScrollMs, jumpMs := Config.medJumpMs }) ∧
    (data.toNat % 4 = 2 → WriteCompletes (.wrTier data) s { s.regs with tier := 2, scrollMs := 100, jumpMs := 180 }) ∧
    (data.toNat % 4 = 3 → WriteCompletes (.wrTier data) s
      { s.regs with tier := 3, scrollMs := Config.vfScrollMs, jumpMs := Config.vfJumpMs })

/-- WR.PWM_CMP takes DATA[7:0], and OUT follows in the same step (R121, R142). -/
def Obligations.WritePwmCmp : Prop :=
  ∀ (s : State) (data : Word), s.regs.busy = false →
    WriteCompletes (.wrPwmCmp data) s { s.regs with pwmCmp := BitVec.ofNat 8 (data.toNat % 2 ^ 8) } ∧
    ∀ t, exec (.wrPwmCmp data) s = .next t → t.pwmOut = decide (s.regs.pwmCnt.toNat < data.toNat % 2 ^ 8)

/-- Reads change no register and may be repeated; a second write of ROUNDS, TIER, PWM_CMP or STATUS changes nothing more; a
second ROUNDS_DEC decrements once more (R54). -/
def Obligations.RepeatedAccesses : Prop :=
  ∀ (s : State) (data : Word), s.regs.busy = false →
    (∀ i ∈ [Instr.rdBtnState, .rdBtnHist, .rdRounds, .rdStatus, .rdTimeMs, .rdTickCount, .rdSubtick, .rdAdcLast, .rdTier,
        .rdScrollMs, .rdJumpMs, .rdPwmCmp, .rdPwmCnt],
      ∃ t, exec i s = .next t ∧ t.regs = s.regs ∧ exec i t = .next t) ∧
    (∀ i ∈ [Instr.wrRounds data, .wrTier data, .wrPwmCmp data, .wrStatus data],
      ∃ t, exec i s = .next t ∧ exec i t = .next t) ∧
    (∃ t u, exec (.wrRoundsDec data) s = .next t ∧ exec (.wrRoundsDec data) t = .next u ∧
      u.regs.rounds.toNat = s.regs.rounds.toNat - 2)

/-! ### Bus errors -/

/-- A read no exact row matches answers `err`, changes no register and records the fault: misaligned, else unmapped, else
the write-only ROUNDS_DEC (R143, R144, R150). That a bus fault is a next state with the response and the record together is
log 5, and that the record of a bus read has no data word is the model's choice (log 9). -/
def Obligations.BusErrorReads : Prop :=
  ∀ (s : State) (ofs : Byte), s.regs.busy = false → (Instr.rdBuserr ofs).wellFormed = true →
    BusErrorTaken (.rdBuserr ofs) s
      (if ofs.toNat % 4 ≠ 0 then .busMisaligned else if 0x34 < ofs.toNat then .busUnmapped else .busWoRead)
      (BitVec.ofNat 16 ofs.toNat) none ∧
    FaultCode.busMisaligned.number = 0x02 ∧ FaultCode.busUnmapped.number = 0x01 ∧ FaultCode.busWoRead.number = 0x04

/-- A write no exact row matches answers `err`, changes no register and records the fault: misaligned, else unmapped, else
read-only (R143, R145, R150). That a bus fault is a next state with the response and the record together is log 5. -/
def Obligations.BusErrorWrites : Prop :=
  ∀ (s : State) (ofs : Byte) (data : Word), s.regs.busy = false → (Instr.wrBuserr ofs data).wellFormed = true →
    BusErrorTaken (.wrBuserr ofs data) s
      (if ofs.toNat % 4 ≠ 0 then .busMisaligned else if 0x34 < ofs.toNat then .busUnmapped else .busRoWrite)
      (BitVec.ofNat 16 (0x4000 + ofs.toNat)) (some data) ∧
    FaultCode.busMisaligned.number = 0x02 ∧ FaultCode.busUnmapped.number = 0x01 ∧ FaultCode.busRoWrite.number = 0x03

/-! ### The tick -/

/-- SUBCLK: below TOP - 1 it only counts; at the wrap with a conversion pending it is the TICK_OVERRUN fault; at any other
wrap SUBTICK is 0 and phase A runs (R80, at the default TOP). -/
def Obligations.SubclkCountsFaultsOrTicks : Prop :=
  ∀ (s : State) (raw : BitVec 3),
    (s.regs.subtick.toNat < 255 →
      ∃ t, exec (.evtSubclk raw) s = .next t ∧ t.regs = { s.regs with subtick := s.regs.subtick + 1 } ∧ SameRecords s t) ∧
    (¬ s.regs.subtick.toNat < 255 → s.regs.busy = true →
      ∃ t r, exec (.evtSubclk raw) s = .next t ∧ t.faultRecord = some r ∧ r.code = .tickOverrun ∧ t.history = s.history ∧
        t.refusedMark = s.refusedMark) ∧
    (¬ s.regs.subtick.toNat < 255 → s.regs.busy = false →
      ∃ t, exec (.evtSubclk raw) s = .next t ∧
        t.regs = (tickPhaseA raw { s with regs := { s.regs with subtick := 0 } }).regs ∧
        t.history = (tickPhaseA raw { s with regs := { s.regs with subtick := 0 } }).history ∧
        t.faultRecord = s.faultRecord ∧ t.refusedMark = s.refusedMark ∧ t.stream = s.stream)

/-- The overrun record holds code 0x05, the control word 0x8001, the data word and TICK_COUNT (R150), and no step follows
(R87). The registers after it are unspecified, and this says nothing of them (R160). -/
def Obligations.OverrunRecord : Prop :=
  ∀ (s : State) (raw : BitVec 3), ¬ s.regs.subtick.toNat < 255 → s.regs.busy = true →
    ∃ t r, exec (.evtSubclk raw) s = .next t ∧ t.faultRecord = some r ∧ r.code.number = 0x05 ∧ r.control = 0x8001 ∧
      r.data = some (BitVec.ofNat 32 raw.toNat) ∧ r.tickCount = s.regs.tickCount ∧ step t = .fault (.recorded r)

/-- Debounce and edge detection of one channel (R92, R93, R94). -/
def Obligations.ChannelSample : Prop :=
  ∀ (c : Channel) (r : Bool),
    (c.sample r).hist = BitVec.ofNat 5 ((2 * c.hist.toNat + r.toNat) % 2 ^ 5) ∧
    (c.sample r).db = (if (c.sample r).hist = 0b11111 then true else if (c.sample r).hist = 0b00000 then false else c.db) ∧
    (c.sample r).prev = (c.sample r).db ∧
    (c.rising r = true ↔ (c.sample r).db = true ∧ c.prev = false)

/-- Phase A whole (R81): the three channels, the edge actions in channel order, BUSY, TICK_COUNT and PWM_CNT, the events in
order, and nothing else. -/
def Obligations.TickPhaseAWhole : Prop :=
  ∀ (s : State) (raw : BitVec 3),
    (tickPhaseA raw s).regs =
      { s.regs with
        adv := s.regs.adv.sample (raw.getLsbD 0)
        jump := s.regs.jump.sample (raw.getLsbD 1)
        abort := s.regs.abort.sample (raw.getLsbD 2)
        rounds :=
          if s.regs.abort.rising (raw.getLsbD 2) = true then 0
          else if s.regs.adv.rising (raw.getLsbD 0) = true then BitVec.ofNat 16 (min (s.regs.rounds.toNat + 1) 0xFFFF)
          else s.regs.rounds
        abortPend := s.regs.abortPend || s.regs.abort.rising (raw.getLsbD 2)
        tickCount := BitVec.ofNat 32 (s.regs.tickCount.toNat + 1)
        pwmCnt := BitVec.ofNat 8 (s.regs.pwmCnt.toNat + 1)
        busy := true } ∧
    (tickPhaseA raw s).history = s.history ++
      ((if s.regs.adv.rising (raw.getLsbD 0) = true then [Event.advanceEdge (s.regs.tickCount + 1)] else []) ++
       (if s.regs.abort.rising (raw.getLsbD 2) = true then [Event.exitDisplay (s.regs.tickCount + 1)] else []) ++
       [Event.adcStart (s.regs.tickCount + 1)]) ∧
    (tickPhaseA raw s).faultRecord = s.faultRecord ∧ (tickPhaseA raw s).refusedMark = s.refusedMark

/-- The advance edge of a tick without an abort edge: ROUNDS goes up by one, at most to 0xFFFF, and AdvanceEdge(n) is emitted;
without an edge ROUNDS is as before and only the conversion start is emitted (R95). -/
def Obligations.AdvanceEdgeCountsRound : Prop :=
  ∀ (s : State) (raw : BitVec 3), ¬ s.regs.subtick.toNat < 255 → s.regs.busy = false →
    s.regs.abort.rising (raw.getLsbD 2) = false →
    ∃ t, exec (.evtSubclk raw) s = .next t ∧
      (s.regs.adv.rising (raw.getLsbD 0) = true →
        t.regs.rounds.toNat = min (s.regs.rounds.toNat + 1) 0xFFFF ∧
        t.history = s.history ++ [.advanceEdge t.regs.tickCount, .adcStart t.regs.tickCount]) ∧
      (s.regs.adv.rising (raw.getLsbD 0) = false →
        t.regs.rounds = s.regs.rounds ∧ t.history = s.history ++ [.adcStart t.regs.tickCount])

/-- The abort edge of a tick: ABORT_PEND is set, ROUNDS is 0 and ExitDisplay(n) is emitted, also where an advance edge falls in
the same tick, whose AdvanceEdge(n) comes first (R96, R98). -/
def Obligations.AbortEdgeEndsSession : Prop :=
  ∀ (s : State) (raw : BitVec 3), ¬ s.regs.subtick.toNat < 255 → s.regs.busy = false →
    s.regs.abort.rising (raw.getLsbD 2) = true →
    ∃ t, exec (.evtSubclk raw) s = .next t ∧ t.regs.abortPend = true ∧ t.regs.rounds = 0 ∧
      t.history = s.history ++
        ((if s.regs.adv.rising (raw.getLsbD 0) = true then [.advanceEdge t.regs.tickCount] else []) ++
         [.exitDisplay t.regs.tickCount, .adcStart t.regs.tickCount])

/-- Phase B (R83, R102, R103, R106), at the default thresholds: the sample is kept and BUSY cleared; a changed sample loads
its tier and emits one Relabel; without a pending conversion it is refused (R73). That a refusal is a next state with only
the mark set is log 7, and that the ports are held in it log 8. -/
def Obligations.AdcReadyCompletesTick : Prop :=
  ∀ (s : State) (v : Half), v.toNat < 2 ^ 10 →
    (s.regs.busy = true → v = s.regs.adcLast →
      ∃ t, exec (.evtAdcReady v) s = .next t ∧ t.regs = { s.regs with busy := false } ∧ SameRecords s t) ∧
    (s.regs.busy = true → v ≠ s.regs.adcLast →
      ∃ t, exec (.evtAdcReady v) s = .next t ∧
        (v.toNat ≤ 250 → t.regs =
          { s.regs with tier := 0, scrollMs := 300, jumpMs := 500, adcLast := v, busy := false }) ∧
        (250 < v.toNat → v.toNat ≤ 500 → t.regs =
          { s.regs with tier := 1, scrollMs := Config.medScrollMs, jumpMs := Config.medJumpMs, adcLast := v, busy := false }) ∧
        (500 < v.toNat → v.toNat ≤ 750 → t.regs =
          { s.regs with tier := 2, scrollMs := 100, jumpMs := 180, adcLast := v, busy := false }) ∧
        (750 < v.toNat → t.regs =
          { s.regs with tier := 3, scrollMs := Config.vfScrollMs, jumpMs := Config.vfJumpMs, adcLast := v, busy := false }) ∧
        t.history = s.history ++ [.relabel t.regs.tier s.regs.tickCount] ∧ t.faultRecord = s.faultRecord ∧
        t.refusedMark = s.refusedMark ∧ t.stream = s.stream) ∧
    (s.regs.busy = false → Refuses (.evtAdcReady v) s .adcNotPending)

/-- `classify` splits the samples at the thresholds, inclusively, for every valid choice of the parameters (R104). -/
def Obligations.ClassifyBands : Prop :=
  ∀ (p : Params) (v : Nat), p.Valid →
    (classify p v = 0 ↔ v ≤ p.t1) ∧ (classify p v = 1 ↔ p.t1 < v ∧ v ≤ p.t2) ∧
    (classify p v = 2 ↔ p.t2 < v ∧ v ≤ p.t3) ∧ (classify p v = 3 ↔ p.t3 < v)

/-- A Relabel is emitted by the ADC_READY of a tick whose sample differs from the one before, once, and by nothing else (R107). -/
def Obligations.RelabelExactlyOnChange : Prop :=
  ∀ (i : Instr) (s t : State), exec i s = .next t →
    ∃ es, t.history = s.history ++ es ∧
      ((∃ v : Half, i = .evtAdcReady v ∧ v.toNat < 2 ^ 10 ∧ s.regs.busy = true ∧ v ≠ s.regs.adcLast) →
        es.countP Event.isRelabel = 1) ∧
      (¬ (∃ v : Half, i = .evtAdcReady v ∧ v.toNat < 2 ^ 10 ∧ s.regs.busy = true ∧ v ≠ s.regs.adcLast) →
        es.countP Event.isRelabel = 0)

/-- The strobes of R41 pulse exactly with the events of the stimulus (the ports between two stimuli are the model's choice, log 8). -/
def Obligations.StrobesFollowEvents : Prop :=
  ∀ (i : Instr) (s t : State), exec i s = .next t → t.refusedMark = none → t.overrun = false →
    ∃ es, t.history = s.history ++ es ∧
      (t.adcStartOut = true ↔ ∃ n, Event.adcStart n ∈ es) ∧
      (t.advStb = true ↔ ∃ n, Event.advanceEdge n ∈ es) ∧
      (t.exitStb = true ↔ ∃ n, Event.exitDisplay n ∈ es) ∧
      ∀ tier, t.relabelTier = some tier ↔ ∃ n, Event.relabel tier n ∈ es

/-! ### Reset -/

/-- The initial state has the reset values of R42, an empty history, no fault and no refused mark (R42, R172). -/
def Obligations.InitialStateValues : Prop :=
  (∀ c : Chan, State.reset.regs.chan c = ⟨0b00000, false, false⟩) ∧
  State.reset.regs.rounds = 0 ∧ State.reset.regs.abortPend = false ∧ State.reset.regs.tickCount = 0 ∧
  State.reset.regs.subtick = 0 ∧ State.timeMs State.reset = 0 ∧ State.reset.regs.adcLast = 0 ∧
  State.reset.regs.tier = 0 ∧ State.reset.regs.scrollMs = 300 ∧ State.reset.regs.jumpMs = 500 ∧
  State.reset.regs.pwmCnt = 0 ∧ State.reset.regs.pwmCmp = 0 ∧ State.reset.pwmOut = false ∧
  State.reset.regs.busy = false ∧ State.reset.adcStartOut = false ∧ State.reset.exitStb = false ∧
  State.reset.advStb = false ∧ State.reset.relabelStb = false ∧
  State.reset.history = [] ∧ State.reset.faultRecord = none ∧ State.reset.refusedMark = none

/-- RESET gives every register its reset value from any state, BUSY = 1 included, and asserts no strobe (R42). It appends
Reset, clears neither record nor history, and abandons a pending conversion: an ADC_READY after it is refused, and a host
access that waited is taken (R170, R73). That the refusal is a next state with only the mark set is log 7, and that the ports
are held in it log 8. -/
def Obligations.ResetRestoresAllRegisters : Prop :=
  ∀ s : State, ∃ t, exec .evtReset s = .next t ∧
    (∀ c : Chan, t.regs.chan c = ⟨0b00000, false, false⟩) ∧
    t.regs.rounds = 0 ∧ t.regs.abortPend = false ∧ t.regs.tickCount = 0 ∧ t.regs.subtick = 0 ∧ t.regs.adcLast = 0 ∧
    t.regs.tier = 0 ∧ t.regs.scrollMs = 300 ∧ t.regs.jumpMs = 500 ∧ t.regs.pwmCnt = 0 ∧ t.regs.pwmCmp = 0 ∧
    t.timeMs = 0 ∧ t.pwmOut = false ∧ t.regs.busy = false ∧
    t.adcStartOut = false ∧ t.advStb = false ∧ t.exitStb = false ∧ t.relabelStb = false ∧
    (s.clean = true → ∀ i, agentOf i = some .host → offer i t = some (exec i t)) ∧
    t.history = s.history ++ [.reset] ∧ t.faultRecord = s.faultRecord ∧ t.refusedMark = s.refusedMark ∧
    ∀ v : Half, v.toNat < 2 ^ 10 → Refuses (.evtAdcReady v) t .adcNotPending

/-! ### Invariants and whole-machine rules -/

/-- The invariants of R43 hold of the initial state (R173). -/
def Obligations.InvariantAtReset : Prop :=
  State.Inv Config.params State.reset ∧
    State.reset.regs.tier = classify Config.params State.reset.regs.adcLast.toNat

/-- Every step keeps the invariants (a), (b), (c) of R43 and the width of the sample, from every state that has them. -/
def Obligations.StepKeepsInvariant : Prop :=
  ∀ s t : State, State.Inv Config.params s → step s = .next t → State.Inv Config.params t

/-- With no host write to TIER, the tier stays the class of the last sample (R43 (d)). -/
def Obligations.TierFollowsSample : Prop :=
  ∀ (i : Instr) (s t : State), exec i s = .next t → t.overrun = false → (∀ data, i ≠ .wrTier data) →
    s.regs.tier = classify Config.params s.regs.adcLast.toNat →
    t.regs.tier = classify Config.params t.regs.adcLast.toNat

/-- The partition of R165: a host access leaves what only the tick writes, and the tick leaves what only the host writes. -/
def Obligations.StatePartitionedByWriter : Prop :=
  ∀ (i : Instr) (s t : State), exec i s = .next t →
    (agentOf i = some .host →
      (∀ c : Chan, t.regs.chan c = s.regs.chan c) ∧ t.regs.tickCount = s.regs.tickCount ∧
      t.regs.subtick = s.regs.subtick ∧ t.regs.adcLast = s.regs.adcLast ∧ t.regs.pwmCnt = s.regs.pwmCnt ∧
      t.regs.busy = s.regs.busy) ∧
    (agentOf i = some .timer ∨ agentOf i = some .adc → t.overrun = false → t.regs.pwmCmp = s.regs.pwmCmp)

/-- ABORT_PEND stays 1 until the host writes 1 to it, or RESET (R27, R38). -/
def Obligations.AbortPendSticky : Prop :=
  ∀ (i : Instr) (s t : State), exec i s = .next t → t.overrun = false → s.regs.abortPend = true →
    t.regs.abortPend = false → i = .evtReset ∨ ∃ data : Word, i = .wrStatus data ∧ data.toNat % 2 = 1

/-- Only the writers R25 lists change ROUNDS: a tick, the two host writes, and RESET. -/
def Obligations.RoundsWriters : Prop :=
  ∀ (i : Instr) (s t : State), exec i s = .next t → t.overrun = false → t.regs.rounds ≠ s.regs.rounds →
    (∃ raw, i = .evtSubclk raw ∧ s.regs.busy = false ∧ ¬ s.regs.subtick.toNat < 255) ∨ (∃ data, i = .wrRounds data) ∨
    (∃ data, i = .wrRoundsDec data) ∨ i = .evtReset

/-- BUSY is set by the conversion start of a tick alone and cleared by ADC_READY or RESET alone (R38, R82). -/
def Obligations.BusyLifecycle : Prop :=
  ∀ (i : Instr) (s t : State), exec i s = .next t → t.overrun = false →
    (s.regs.busy = false → t.regs.busy = true →
      (∃ raw, i = .evtSubclk raw) ∧ Event.adcStart (s.regs.tickCount + 1) ∈ t.history ∧
        t.regs.tickCount = s.regs.tickCount + 1 ∧ t.regs.subtick = 0) ∧
    (s.regs.busy = true → t.regs.busy = false → i = .evtReset ∨ ∃ v, i = .evtAdcReady v)

/-- While the environment keeps the bound ADC_LAT_MAX, no SUBCLK overruns and the bound stays kept (R84, R183). -/
def Obligations.LatencyBoundPreventsOverrun : Prop :=
  ∀ (i : Instr) (s t : State), s.clean = true → s.latencyKept Config.params → obeysLatency Config.params i s →
    exec i s = .next t → t.overrun = false ∧ t.latencyKept Config.params

/-- TICK_COUNT · TOP + SUBTICK counts the SUBCLKs modulo TOP · 2^32: a SUBCLK adds one and nothing but RESET changes it
otherwise (R111). -/
def Obligations.PositionCountsSubclks : Prop :=
  ∀ (i : Instr) (s t : State), exec i s = .next t → t.overrun = false → s.regs.subtick.toNat < 256 → i ≠ .evtReset →
    ((∃ raw, i = .evtSubclk raw) →
      t.regs.tickCount.toNat * 256 + t.regs.subtick.toNat =
        (s.regs.tickCount.toNat * 256 + s.regs.subtick.toNat + 1) % (256 * 2 ^ 32)) ∧
    ((∀ raw, i ≠ .evtSubclk raw) → t.regs.tickCount = s.regs.tickCount ∧ t.regs.subtick = s.regs.subtick)

/-- TIME_MS never decreases along a run with no RESET and no wrap of TICK_COUNT (R113). -/
def Obligations.ElapsedNeverDecreases : Prop :=
  ∀ s t : State, State.Inv Config.params s → s.overrun = false → NoWrapRun s t → s.timeMs ≤ t.timeMs

/-- Elapsed time at SUBTICK = 0 is floor(T · 128 / 1000), 0 at 0 and non-decreasing in T (R114). -/
def Obligations.ElapsedTimeOfTicks : Prop :=
  State.reset.timeMs = 0 ∧
  (∀ a : Word, (timeMs Config.params a 0).toNat = a.toNat * 128 / 1000) ∧
  ∀ a b : Word, a.toNat ≤ b.toNat → (timeMs Config.params a 0).toNat ≤ (timeMs Config.params b 0).toNat

/-- Over any run that holds 256 ticks, no RESET and no write to PWM_CMP, with any other stimuli between them, the counter takes
every value after exactly one of the ticks, and OUT is high after exactly CMP of them (R118, R119, R120). -/
def Obligations.PwmDuty : Prop :=
  ∀ (p : Params) (stim : Nat → Instr) (states : Nat → State) (n : Nat), IsRun p stim states n →
    (∀ k < n, stim k ≠ .evtReset ∧ ∀ data, stim k ≠ .wrPwmCmp data) → (ticksOf p stim states n).length = 256 →
    (∀ v : Byte, (ticksOf p stim states n).countP (fun k => (states (k + 1)).regs.pwmCnt == v) = 1) ∧
    (ticksOf p stim states n).countP (fun k => (states (k + 1)).pwmOut) = (states 0).regs.pwmCmp.toNat

/-- Nothing reads the PWM counter but RD.PWM_CNT and the pin: the same stimulus from the state with any other counter answers a
next state too, with the same response, strobes, history and records, and the same registers but for the counter (R123). -/
def Obligations.PwmCounterIsolated : Prop :=
  ∀ (i : Instr) (s t : State) (cnt : Byte), i ≠ .rdPwmCnt → exec i s = .next t → t.overrun = false →
    ∃ u, exec i { s with regs := { s.regs with pwmCnt := cnt } } = .next u ∧
      u.out = t.out ∧ u.history = t.history ∧ u.faultRecord = t.faultRecord ∧ u.refusedMark = t.refusedMark ∧
      { u.regs with pwmCnt := 0 } = { t.regs with pwmCnt := 0 }

/-- The properties (a) to (d) of R99, for every channel and from every state. In (c) the samples already in the history count
as samples, as 90_conflicts.md C7 says: db stays as long as no five consecutive samples, a new one among them, agree on the
level db does not have. Five that agree on the level it has do not change it either. -/
def Obligations.DebounceProperties : Prop :=
  ∀ c : Channel,
    (∀ r, (c.sample r).db ≠ c.db →
      ((c.sample r).hist = 0b11111 ∧ (c.sample r).db = true) ∨ ((c.sample r).hist = 0b00000 ∧ (c.sample r).db = false)) ∧
    (∀ r, (c.samples (List.replicate 5 r)).db = r) ∧
    (∀ rs : List Bool,
      (∀ before after : List Bool,
        historySamples c.hist ++ rs = before ++ List.replicate 5 (!c.db) ++ after → before = []) →
      (c.samples rs).db = c.db) ∧
    (c.db = false → c.hist.getLsbD 0 = false →
      (∀ k < 4, (c.samples (List.replicate k true)).rising true = false) ∧
      (c.samples (List.replicate 4 true)).rising true = true)

/-- An advance edge and a ROUNDS_DEC in either order leave COUNT as it was, for 1 ≤ COUNT ≤ 0xFFFE (R59, R177). -/
def Obligations.AdvanceAndDecrementBothCount : Prop :=
  ∀ (s : State) (raw : BitVec 3) (v : Half) (data : Word),
    s.regs.busy = false → ¬ s.regs.subtick.toNat < 255 → v.toNat < 2 ^ 10 →
    s.regs.adv.rising (raw.getLsbD 0) = true → s.regs.abort.rising (raw.getLsbD 2) = false →
    1 ≤ s.regs.rounds.toNat → s.regs.rounds.toNat ≤ 0xFFFE →
    (∃ a b c, exec (.evtSubclk raw) s = .next a ∧ exec (.evtAdcReady v) a = .next b ∧
      exec (.wrRoundsDec data) b = .next c ∧ c.regs.rounds = s.regs.rounds) ∧
    (∃ a b c, exec (.wrRoundsDec data) s = .next a ∧ exec (.evtSubclk raw) a = .next b ∧
      exec (.evtAdcReady v) b = .next c ∧ c.regs.rounds = s.regs.rounds)

/-- A host write to TIER lasts over a tick whose sample equals ADC_LAST, and the next changed sample reloads the tier from its
class (R141, R180). -/
def Obligations.TierOverrideLastsUntilChange : Prop :=
  ∀ (s : State) (raw : BitVec 3) (v : Half) (data : Word),
    s.regs.busy = false → ¬ s.regs.subtick.toNat < 255 → v.toNat < 2 ^ 10 →
    ∃ a b c, exec (.wrTier data) s = .next a ∧ exec (.evtSubclk raw) a = .next b ∧ exec (.evtAdcReady v) b = .next c ∧
      (v = s.regs.adcLast → c.regs.tier = BitVec.ofNat 2 (data.toNat % 4)) ∧
      (v ≠ s.regs.adcLast → c.regs.tier = classify Config.params v.toNat)

/-- The pseudo-instruction `tick raw, v` runs one whole tick from any state between two ticks: its encoded expansion, step by
step, ends with BUSY = 0, SUBTICK = 0, one tick more, the channels sampled once with raw and the sample kept (R76, R82). -/
def Obligations.TickPseudoRunsOneTick : Prop :=
  ∀ (s : State) (raw : BitVec 3) (v : Half) (is : List Instr) (rest : List Byte),
    s.clean = true → s.regs.subtick.toNat < 256 → v.toNat < 2 ^ 10 →
    (Pseudo.tick raw v).expand Config.params s = some is → s.stream = encodeAll is ++ rest →
    ∃ t, Sys2Proof.core.run is.length s = .next t ∧ t.clean = true ∧ t.stream = rest ∧ t.regs.busy = false ∧
      t.regs.subtick = 0 ∧ t.regs.tickCount = s.regs.tickCount + 1 ∧ t.regs.pwmCnt = s.regs.pwmCnt + 1 ∧
      t.regs.adcLast = v ∧ t.regs.adv = s.regs.adv.sample (raw.getLsbD 0) ∧
      t.regs.jump = s.regs.jump.sample (raw.getLsbD 1) ∧ t.regs.abort = s.regs.abort.sample (raw.getLsbD 2)

/-! ### The parameters as arguments -/

/-- The parameters of R11 are arguments fixed for a run (R46): at the spec's defaults (log 3), which R11 allows, decoder,
dispatch, step and machine are those behind the interface, and with any parameters a step runs the decoded stimulus. -/
def Obligations.ParametersAreArguments : Prop :=
  Config.params.Valid ∧
  (Config.params.adcBits = 10 ∧ Config.params.t1 = 250 ∧ Config.params.t2 = 500 ∧ Config.params.t3 = 750 ∧
    Config.params.top = 256 ∧ Config.params.fSub = 2000000) ∧
  (∀ i : Instr, i.wellFormedWith Config.params = i.wellFormed) ∧
  (∀ bytes, decodeWith Config.params bytes = decode bytes) ∧
  (∀ i s, execWith Config.params i s = exec i s) ∧
  (∀ s, stepWith Config.params s = step s) ∧
  coreWith Config.params = Sys2Proof.core ∧
  ∀ (p : Params) (s : State) (i : Instr) (rest : List Byte), s.clean = true → decodeWith p s.stream = .instr i rest →
    stepWith p s = execWith p i { s with stream := rest }

/-- For every choice of the parameters that R11 allows: decode of encode is the stimulus, what is decoded is well formed and is
its own encoding, and an ADC result that does not fit ADC_BITS is refused (R69, R70, R72). -/
def Obligations.CodecForEveryParameters : Prop :=
  ∀ p : Params, p.Valid →
    (∀ (i : Instr) (rest : List Byte), i.wellFormedWith p = true → decodeWith p (encode i ++ rest) = .instr i rest) ∧
    (∀ (bytes : List Byte) (i : Instr) (rest : List Byte), decodeWith p bytes = .instr i rest →
      i.wellFormedWith p = true ∧ bytes = encode i ++ rest) ∧
    (∀ (d : Word) (rest : List Byte), 2 ^ p.adcBits ≤ d.toNat →
      decodeWith p (bytesOfHalf 0x8002 ++ bytesOfWord d ++ rest) = .refused .evtDataRsv)

/-- For every choice of the parameters that R11 allows, the invariant of R43 (a) to (c) holds of the reset state and every step
keeps it. -/
def Obligations.StepKeepsInvariantForEveryParameters : Prop :=
  ∀ p : Params, p.Valid →
    State.Inv p State.reset ∧ ∀ s t : State, State.Inv p s → stepWith p s = .next t → State.Inv p t

/-- For every choice of the parameters that R11 allows: SUBCLK counts below TOP - 1 and else overruns or ticks (R80), ADC_READY
classifies by T1 to T3 and loads the pair of the table (R103 to R106), WR.TIER loads it too (R141), and RD.TIME_MS computes
with TOP and F_SUB (R112, R129). -/
def Obligations.ParametersGovernTheRows : Prop :=
  ∀ (p : Params) (s : State), p.Valid →
    (∀ raw, s.regs.subtick.toNat < p.top - 1 →
      ∃ t, execWith p (.evtSubclk raw) s = .next t ∧
        t.regs = { s.regs with subtick := BitVec.ofNat 16 (s.regs.subtick.toNat + 1) } ∧ SameRecords s t) ∧
    (∀ raw, ¬ s.regs.subtick.toNat < p.top - 1 → s.regs.busy = true →
      ∃ t r, execWith p (.evtSubclk raw) s = .next t ∧ t.faultRecord = some r ∧ r.code = .tickOverrun) ∧
    (∀ raw, ¬ s.regs.subtick.toNat < p.top - 1 → s.regs.busy = false →
      ∃ t, execWith p (.evtSubclk raw) s = .next t ∧
        t.regs = (tickPhaseA raw { s with regs := { s.regs with subtick := 0 } }).regs ∧
        t.history = (tickPhaseA raw { s with regs := { s.regs with subtick := 0 } }).history) ∧
    (∀ v : Half, v.toNat < 2 ^ p.adcBits → s.regs.busy = true → v ≠ s.regs.adcLast →
      ∃ t, execWith p (.evtAdcReady v) s = .next t ∧
        t.regs = { s.regs with
          tier := classify p v.toNat
          scrollMs := (tierTable p (classify p v.toNat)).1
          jumpMs := (tierTable p (classify p v.toNat)).2
          adcLast := v
          busy := false } ∧
        t.history = s.history ++ [.relabel (classify p v.toNat) s.regs.tickCount]) ∧
    (∀ data : Word, s.regs.busy = false →
      ∃ t, execWith p (.wrTier data) s = .next t ∧ t.out.response = some .ok ∧
        t.regs = { s.regs with
          tier := BitVec.ofNat 2 (data.toNat % 4)
          scrollMs := (tierTable p (BitVec.ofNat 2 (data.toNat % 4))).1
          jumpMs := (tierTable p (BitVec.ofNat 2 (data.toNat % 4))).2 }) ∧
    (s.regs.busy = false →
      ∃ t, execWith p .rdTimeMs s = .next t ∧
        t.out.response =
          some (.data (BitVec.ofNat 32 ((s.regs.tickCount.toNat * p.top + s.regs.subtick.toNat) * 1000 / p.fSub))) ∧
        t.regs = s.regs)

/-- In every infinite run in which TIMER is weakly fair (R88), and from any point after which no RESET comes: a tick comes; a
channel whose pin is held at one level at every SUBCLK comes to that debounced state; and an ABORT pin held closed, from a
released state, comes to its edge, with the exit strobe. An infinite run has no overrun, and `LatencyBoundPreventsOverrun` says
that the obligation of R84 rules one out. -/
def Obligations.FairRunsKeepTicking : Prop :=
  ∀ (p : Params) (stim : Nat → Instr) (states : Nat → State) (n : Nat), p.Valid → (∀ m, IsRun p stim states m) →
    TimerFair stim → (∀ k, n ≤ k → stim k ≠ .evtReset) →
    (∃ k, n ≤ k ∧ isTick p (stim k) (states k) = true ∧
      (states (k + 1)).regs.tickCount = (states k).regs.tickCount + 1) ∧
    (∀ (c : Chan) (r : Bool), (∀ k raw, n ≤ k → stim k = .evtSubclk raw → raw.getLsbD c.number = r) →
      ∃ k, n ≤ k ∧ ((states k).regs.chan c).db = r) ∧
    ((states n).regs.abort.db = false → (states n).regs.abort.prev = false →
      (∀ k raw, n ≤ k → stim k = .evtSubclk raw → raw.getLsbD 2 = true) →
      ∃ k, n ≤ k ∧ (states (k + 1)).exitStb = true)
end

