-- ==== Sys2Proof/Laws/Decode.lean ====
section
/-! SUPPORT. Bytes and words: taking a word apart and putting it together again, and how the decoder reads an encoded word. -/

namespace Sys2Proof

@[simp] theorem halfOfBytes_bytes (h : Half) : halfOfBytes (h.extractLsb' 0 8) (h.extractLsb' 8 8) = h := by
  unfold halfOfBytes
  ext i hi
  simp only [BitVec.getElem_append, BitVec.getElem_extractLsb']
  split
  · simp [BitVec.getElem_eq_testBit_toNat, BitVec.getLsbD]
  · rw [show 8 + (i - 8) = i by omega]
    simp [BitVec.getElem_eq_testBit_toNat, BitVec.getLsbD]

@[simp] theorem wordOfBytes_bytes (w : Word) :
    wordOfBytes (w.extractLsb' 0 8) (w.extractLsb' 8 8) (w.extractLsb' 16 8) (w.extractLsb' 24 8) = w := by
  unfold wordOfBytes
  apply BitVec.eq_of_getLsbD_eq
  intro i hi
  simp only [BitVec.getLsbD_append, BitVec.getLsbD_extractLsb']
  by_cases h0 : i < 8
  · simp [h0]
  · by_cases h1 : i < 16
    · simp [h0, show i - 8 < 8 by omega, show 8 + (i - 8) = i by omega]
    · by_cases h2 : i < 24
      · simp [h0, show ¬ i - 8 < 8 by omega, show i - 8 - 8 < 8 by omega, show 16 + (i - 8 - 8) = i by omega]
      · simp [h0, show ¬ i - 8 < 8 by omega, show ¬ i - 8 - 8 < 8 by omega, show i - 8 - 8 - 8 < 8 by omega,
          show 24 + (i - 8 - 8 - 8) = i by omega]

/-- A byte of a concatenation, read back by its place. -/
theorem extractLsb'_low {m n : Nat} (a : BitVec m) (b : BitVec n) : (a ++ b).extractLsb' 0 n = b := by
  apply BitVec.eq_of_getLsbD_eq
  intro i hi
  rw [BitVec.getLsbD_extractLsb', BitVec.getLsbD_append]
  simp only [Nat.zero_add, hi, decide_true, Bool.true_and, if_true]

theorem extractLsb'_high {m n k l : Nat} (a : BitVec m) (b : BitVec n) :
    (a ++ b).extractLsb' (n + k) l = a.extractLsb' k l := by
  apply BitVec.eq_of_getLsbD_eq
  intro i hi
  rw [BitVec.getLsbD_extractLsb', BitVec.getLsbD_extractLsb', BitVec.getLsbD_append,
    if_neg (by omega), show n + k + i - n = k + i by omega]

theorem extractLsb'_all {n : Nat} (a : BitVec n) : a.extractLsb' 0 n = a := by
  apply BitVec.eq_of_getLsbD_eq
  intro i hi
  rw [BitVec.getLsbD_extractLsb']
  simp only [Nat.zero_add, hi, decide_true, Bool.true_and]

@[simp] theorem bytesOfHalf_halfOfBytes (lo hi : Byte) : bytesOfHalf (halfOfBytes lo hi) = [lo, hi] := by
  unfold bytesOfHalf halfOfBytes
  have h1 : (hi ++ lo : Half).extractLsb' 8 8 = hi := (extractLsb'_high (k := 0) hi lo).trans (extractLsb'_all hi)
  rw [extractLsb'_low, h1]

@[simp] theorem bytesOfWord_wordOfBytes (b0 b1 b2 b3 : Byte) : bytesOfWord (wordOfBytes b0 b1 b2 b3) = [b0, b1, b2, b3] := by
  unfold bytesOfWord wordOfBytes
  have h1 : ((b3 ++ b2 ++ b1 ++ b0 : Word)).extractLsb' 8 8 = b1 :=
    (extractLsb'_high (k := 0) (b3 ++ b2 ++ b1) b0).trans (extractLsb'_low (b3 ++ b2) b1)
  have h2 : ((b3 ++ b2 ++ b1 ++ b0 : Word)).extractLsb' 16 8 = b2 :=
    (extractLsb'_high (k := 8) (b3 ++ b2 ++ b1) b0).trans
      ((extractLsb'_high (k := 0) (b3 ++ b2) b1).trans (extractLsb'_low b3 b2))
  have h3 : ((b3 ++ b2 ++ b1 ++ b0 : Word)).extractLsb' 24 8 = b3 :=
    (extractLsb'_high (k := 16) (b3 ++ b2 ++ b1) b0).trans
      ((extractLsb'_high (k := 8) (b3 ++ b2) b1).trans ((extractLsb'_high (k := 0) b3 b2).trans (extractLsb'_all b3)))
  rw [extractLsb'_low, h1, h2, h3]

/-- A read word decodes from its control word alone (R62, R74). -/
theorem decodeWith_read (p : Params) (ctrl : Half) (rest : List Byte) (h : controlRefusal ctrl = none)
    (hc : clsField ctrl = 0b00) :
    decodeWith p (bytesOfHalf ctrl ++ rest) = .instr (decodeRead (ofsField ctrl)) rest := by
  simp [bytesOfHalf, decodeWith, h, hc]

theorem decode_read (ctrl : Half) (rest : List Byte) (h : controlRefusal ctrl = none) (hc : clsField ctrl = 0b00) :
    decode (bytesOfHalf ctrl ++ rest) = .instr (decodeRead (ofsField ctrl)) rest :=
  decodeWith_read Config.params ctrl rest h hc

/-- A write or event word decodes with its data word (R62, R74). -/
theorem decodeWith_data (p : Params) (ctrl : Half) (data : Word) (rest : List Byte) (h : controlRefusal ctrl = none)
    (hc : clsField ctrl ≠ 0b00) :
    decodeWith p (bytesOfHalf ctrl ++ bytesOfWord data ++ rest) = decodeWithData p ctrl data rest := by
  simp only [bytesOfHalf, bytesOfWord, List.cons_append, List.nil_append, decodeWith, halfOfBytes_bytes, h, if_neg hc,
    wordOfBytes_bytes]

theorem decode_data (ctrl : Half) (data : Word) (rest : List Byte) (h : controlRefusal ctrl = none)
    (hc : clsField ctrl ≠ 0b00) :
    decode (bytesOfHalf ctrl ++ bytesOfWord data ++ rest) = decodeWithData Config.params ctrl data rest :=
  decodeWith_data Config.params ctrl data rest h hc

/-- A word whose control word is refused (R73), whatever follows it. -/
theorem decodeWith_refused (p : Params) (ctrl : Half) (rest : List Byte) (code : RefusalCode)
    (h : controlRefusal ctrl = some code) : decodeWith p (bytesOfHalf ctrl ++ rest) = .refused code := by
  simp [bytesOfHalf, decodeWith, h]

theorem decode_refused (ctrl : Half) (rest : List Byte) (code : RefusalCode) (h : controlRefusal ctrl = some code) :
    decode (bytesOfHalf ctrl ++ rest) = .refused code :=
  decodeWith_refused Config.params ctrl rest code h

/-! ### Fields of a control word -/

theorem clsField_append (hi lo : Byte) : clsField (hi ++ lo) = hi.extractLsb' 6 2 := extractLsb'_high (k := 6) hi lo

theorem rsvField_append (hi lo : Byte) : rsvField (hi ++ lo) = hi.extractLsb' 0 6 := extractLsb'_high (k := 0) hi lo

theorem ofsField_append (hi lo : Byte) : ofsField (hi ++ lo) = lo := extractLsb'_low hi lo

theorem clsField_toNat (c : Half) : (clsField c).toNat = c.toNat / 2 ^ 14 := by
  have := c.isLt
  simp only [clsField, BitVec.extractLsb'_toNat, Nat.shiftRight_eq_div_pow]
  omega

theorem rsvField_toNat (c : Half) : (rsvField c).toNat = c.toNat / 2 ^ 8 % 2 ^ 6 := by
  simp only [rsvField, BitVec.extractLsb'_toNat, Nat.shiftRight_eq_div_pow]

theorem ofsField_toNat (c : Half) : (ofsField c).toNat = c.toNat % 2 ^ 8 := by
  simp [ofsField, BitVec.extractLsb'_toNat]

/-! ### The read and write rows (R70) -/

theorem controlRefusal_read (ofs : Byte) : controlRefusal ((0x00 : Byte) ++ ofs) = none := by
  simp only [controlRefusal, clsField_append, rsvField_append]
  decide +revert

theorem controlRefusal_write (ofs : Byte) : controlRefusal ((0x40 : Byte) ++ ofs) = none := by
  simp only [controlRefusal, clsField_append, rsvField_append]
  decide +revert

theorem decodeWith_readRow (p : Params) (ofs : Byte) (rest : List Byte) :
    decodeWith p (bytesOfHalf ((0x00 : Byte) ++ ofs) ++ rest) = .instr (decodeRead ofs) rest := by
  rw [decodeWith_read _ _ _ (controlRefusal_read ofs) (by rw [clsField_append]; decide), ofsField_append]

theorem decode_readRow (ofs : Byte) (rest : List Byte) :
    decode (bytesOfHalf ((0x00 : Byte) ++ ofs) ++ rest) = .instr (decodeRead ofs) rest :=
  decodeWith_readRow Config.params ofs rest

theorem decodeWith_writeRow (p : Params) (ofs : Byte) (data : Word) (rest : List Byte) :
    decodeWith p (bytesOfHalf ((0x40 : Byte) ++ ofs) ++ bytesOfWord data ++ rest) = .instr (decodeWrite ofs data) rest := by
  rw [decodeWith_data _ _ _ _ (controlRefusal_write ofs) (by rw [clsField_append]; decide), decodeWithData, ofsField_append,
    if_pos (by rw [clsField_append]; decide)]

theorem decode_writeRow (ofs : Byte) (data : Word) (rest : List Byte) :
    decode (bytesOfHalf ((0x40 : Byte) ++ ofs) ++ bytesOfWord data ++ rest) = .instr (decodeWrite ofs data) rest :=
  decodeWith_writeRow Config.params ofs data rest

theorem decodeRead_spelling (p : Params) (ofs : Byte) :
    (decodeRead ofs).wellFormedWith p = true ∧ (decodeRead ofs).control = (0x00 : Byte) ++ ofs ∧
      (decodeRead ofs).dataWord = none := by
  have h : (decodeRead ofs).wellFormed = true ∧ (decodeRead ofs).control = (0x00 : Byte) ++ ofs ∧
      (decodeRead ofs).dataWord = none := by
    revert ofs
    decide
  refine ⟨?_, h.2⟩
  obtain ⟨hw, _, hd⟩ := h
  generalize decodeRead ofs = i at hw hd
  cases i <;> first | exact hw | cases hd

theorem decodeWrite_spelling (p : Params) (ofs : Byte) (data : Word) :
    (decodeWrite ofs data).wellFormedWith p = true ∧ (decodeWrite ofs data).control = (0x40 : Byte) ++ ofs ∧
      (decodeWrite ofs data).dataWord = some data := by
  unfold decodeWrite
  split; · subst ofs; exact ⟨rfl, rfl, rfl⟩
  split; · subst ofs; exact ⟨rfl, rfl, rfl⟩
  split; · subst ofs; exact ⟨rfl, rfl, rfl⟩
  split; · subst ofs; exact ⟨rfl, rfl, rfl⟩
  split; · subst ofs; exact ⟨rfl, rfl, rfl⟩
  refine ⟨?_, rfl, rfl⟩
  simp_all [Instr.wellFormedWith, exactWriteOffsets]

theorem decodeRead_fallback {ofs : Byte} (h : (Instr.rdBuserr ofs).wellFormed = true) :
    decodeRead ofs = .rdBuserr ofs := by
  revert ofs
  decide

theorem decodeWrite_fallback {ofs : Byte} {data : Word} (h : (Instr.wrBuserr ofs data).wellFormed = true) :
    decodeWrite ofs data = .wrBuserr ofs data := by
  simp [Instr.wellFormed, Instr.wellFormedWith, exactWriteOffsets] at h
  simp [decodeWrite, h]

theorem encode_noData {i : Instr} (h : i.dataWord = none) : encode i = bytesOfHalf i.control := by
  simp [encode, h]

theorem encode_withData {i : Instr} {d : Word} (h : i.dataWord = some d) :
    encode i = bytesOfHalf i.control ++ bytesOfWord d := by
  simp [encode, h]

end Sys2Proof
end

