-- ==== Sys2Proof/Laws/State.lean ====
section
/-! SUPPORT. What each small operation does to each field of the state: one lemma per field per operation, true by rfl. -/

namespace Sys2Proof.Machine

@[simp] theorem emit_regs (e : Event) (s : State) : (emit e s).regs = s.regs := rfl
@[simp] theorem emit_out (e : Event) (s : State) : (emit e s).out = s.out.strobe e := rfl
@[simp] theorem emit_history (e : Event) (s : State) : (emit e s).history = s.history ++ [e] := rfl
@[simp] theorem emit_faultRecord (e : Event) (s : State) : (emit e s).faultRecord = s.faultRecord := rfl
@[simp] theorem emit_refusedMark (e : Event) (s : State) : (emit e s).refusedMark = s.refusedMark := rfl
@[simp] theorem emit_freeCount (e : Event) (s : State) : (emit e s).freeCount = s.freeCount := rfl
@[simp] theorem emit_stream (e : Event) (s : State) : (emit e s).stream = s.stream := rfl

@[simp] theorem respond_regs (a : Response) (s : State) : (respond a s).regs = s.regs := rfl
@[simp] theorem respond_out (a : Response) (s : State) : (respond a s).out = { Outputs.idle with response := some a } := rfl
@[simp] theorem respond_history (a : Response) (s : State) : (respond a s).history = s.history := rfl
@[simp] theorem respond_faultRecord (a : Response) (s : State) : (respond a s).faultRecord = s.faultRecord := rfl
@[simp] theorem respond_refusedMark (a : Response) (s : State) : (respond a s).refusedMark = s.refusedMark := rfl
@[simp] theorem respond_freeCount (a : Response) (s : State) : (respond a s).freeCount = s.freeCount := rfl
@[simp] theorem respond_stream (a : Response) (s : State) : (respond a s).stream = s.stream := rfl

@[simp] theorem quiet_regs (s : State) : (quiet s).regs = s.regs := rfl
@[simp] theorem quiet_out (s : State) : (quiet s).out = Outputs.idle := rfl
@[simp] theorem quiet_history (s : State) : (quiet s).history = s.history := rfl
@[simp] theorem quiet_faultRecord (s : State) : (quiet s).faultRecord = s.faultRecord := rfl
@[simp] theorem quiet_refusedMark (s : State) : (quiet s).refusedMark = s.refusedMark := rfl
@[simp] theorem quiet_freeCount (s : State) : (quiet s).freeCount = s.freeCount := rfl
@[simp] theorem quiet_stream (s : State) : (quiet s).stream = s.stream := rfl

@[simp] theorem refuse_regs (c : RefusalCode) (s : State) : (refuse c s).regs = s.regs := rfl
@[simp] theorem refuse_out (c : RefusalCode) (s : State) : (refuse c s).out = s.out := rfl
@[simp] theorem refuse_history (c : RefusalCode) (s : State) : (refuse c s).history = s.history := rfl
@[simp] theorem refuse_faultRecord (c : RefusalCode) (s : State) : (refuse c s).faultRecord = s.faultRecord := rfl
@[simp] theorem refuse_refusedMark (c : RefusalCode) (s : State) : (refuse c s).refusedMark = some c := rfl
@[simp] theorem refuse_freeCount (c : RefusalCode) (s : State) : (refuse c s).freeCount = s.freeCount := rfl
@[simp] theorem refuse_stream (c : RefusalCode) (s : State) : (refuse c s).stream = s.stream := rfl

@[simp] theorem raiseBusFault_regs (c : FaultCode) (i : Instr) (s : State) : (raiseBusFault c i s).regs = s.regs := rfl
@[simp] theorem raiseBusFault_out (c : FaultCode) (i : Instr) (s : State) : (raiseBusFault c i s).out = { Outputs.idle with response := some (.err c) } := rfl
@[simp] theorem raiseBusFault_history (c : FaultCode) (i : Instr) (s : State) : (raiseBusFault c i s).history = s.history := rfl
@[simp] theorem raiseBusFault_faultRecord (c : FaultCode) (i : Instr) (s : State) : (raiseBusFault c i s).faultRecord = some (faultRecordOf c i s) := rfl
@[simp] theorem raiseBusFault_refusedMark (c : FaultCode) (i : Instr) (s : State) : (raiseBusFault c i s).refusedMark = s.refusedMark := rfl
@[simp] theorem raiseBusFault_freeCount (c : FaultCode) (i : Instr) (s : State) : (raiseBusFault c i s).freeCount = s.freeCount := rfl
@[simp] theorem raiseBusFault_stream (c : FaultCode) (i : Instr) (s : State) : (raiseBusFault c i s).stream = s.stream := rfl

@[simp] theorem raiseOverrun_regs (i : Instr) (s : State) : (raiseOverrun i s).regs = Config.regsAfterOverrun s.freeCount s.regs := rfl
@[simp] theorem raiseOverrun_out (i : Instr) (s : State) : (raiseOverrun i s).out = Config.outputsAfterOverrun s.freeCount s.regs := rfl
@[simp] theorem raiseOverrun_history (i : Instr) (s : State) : (raiseOverrun i s).history = s.history := rfl
@[simp] theorem raiseOverrun_faultRecord (i : Instr) (s : State) : (raiseOverrun i s).faultRecord = some (faultRecordOf .tickOverrun i s) := rfl
@[simp] theorem raiseOverrun_refusedMark (i : Instr) (s : State) : (raiseOverrun i s).refusedMark = s.refusedMark := rfl
@[simp] theorem raiseOverrun_freeCount (i : Instr) (s : State) : (raiseOverrun i s).freeCount = s.freeCount + 1 := rfl
@[simp] theorem raiseOverrun_stream (i : Instr) (s : State) : (raiseOverrun i s).stream = s.stream := rfl

@[simp] theorem debounce_regs (c : Chan) (r : Bool) (s : State) : (debounce c r s).regs = s.regs.setChan c ((s.regs.chan c).sample r) := rfl
@[simp] theorem debounce_out (c : Chan) (r : Bool) (s : State) : (debounce c r s).out = s.out := rfl
@[simp] theorem debounce_history (c : Chan) (r : Bool) (s : State) : (debounce c r s).history = s.history := rfl
@[simp] theorem debounce_faultRecord (c : Chan) (r : Bool) (s : State) : (debounce c r s).faultRecord = s.faultRecord := rfl
@[simp] theorem debounce_refusedMark (c : Chan) (r : Bool) (s : State) : (debounce c r s).refusedMark = s.refusedMark := rfl
@[simp] theorem debounce_freeCount (c : Chan) (r : Bool) (s : State) : (debounce c r s).freeCount = s.freeCount := rfl
@[simp] theorem debounce_stream (c : Chan) (r : Bool) (s : State) : (debounce c r s).stream = s.stream := rfl

@[simp] theorem timebaseTick_regs (s : State) : (timebaseTick s).regs = { s.regs with tickCount := s.regs.tickCount + 1 } := rfl
@[simp] theorem timebaseTick_out (s : State) : (timebaseTick s).out = s.out := rfl
@[simp] theorem timebaseTick_history (s : State) : (timebaseTick s).history = s.history := rfl
@[simp] theorem timebaseTick_faultRecord (s : State) : (timebaseTick s).faultRecord = s.faultRecord := rfl
@[simp] theorem timebaseTick_refusedMark (s : State) : (timebaseTick s).refusedMark = s.refusedMark := rfl
@[simp] theorem timebaseTick_freeCount (s : State) : (timebaseTick s).freeCount = s.freeCount := rfl
@[simp] theorem timebaseTick_stream (s : State) : (timebaseTick s).stream = s.stream := rfl

@[simp] theorem pwmTick_regs (s : State) : (pwmTick s).regs = { s.regs with pwmCnt := s.regs.pwmCnt + 1 } := rfl
@[simp] theorem pwmTick_out (s : State) : (pwmTick s).out = s.out := rfl
@[simp] theorem pwmTick_history (s : State) : (pwmTick s).history = s.history := rfl
@[simp] theorem pwmTick_faultRecord (s : State) : (pwmTick s).faultRecord = s.faultRecord := rfl
@[simp] theorem pwmTick_refusedMark (s : State) : (pwmTick s).refusedMark = s.refusedMark := rfl
@[simp] theorem pwmTick_freeCount (s : State) : (pwmTick s).freeCount = s.freeCount := rfl
@[simp] theorem pwmTick_stream (s : State) : (pwmTick s).stream = s.stream := rfl

@[simp] theorem adcStart_regs (n : Word) (s : State) : (adcStart n s).regs = { s.regs with busy := true } := rfl
@[simp] theorem adcStart_out (n : Word) (s : State) : (adcStart n s).out = s.out.strobe (.adcStart n) := rfl
@[simp] theorem adcStart_history (n : Word) (s : State) : (adcStart n s).history = s.history ++ [.adcStart n] := rfl
@[simp] theorem adcStart_faultRecord (n : Word) (s : State) : (adcStart n s).faultRecord = s.faultRecord := rfl
@[simp] theorem adcStart_refusedMark (n : Word) (s : State) : (adcStart n s).refusedMark = s.refusedMark := rfl
@[simp] theorem adcStart_freeCount (n : Word) (s : State) : (adcStart n s).freeCount = s.freeCount := rfl
@[simp] theorem adcStart_stream (n : Word) (s : State) : (adcStart n s).stream = s.stream := rfl

end Sys2Proof.Machine
end

