-- ==== Sys2Proof/Laws/Ops.lean ====
section
/-! SUPPORT. One lemma for each shared operation that says everything it can do, for proofs to cite instead of unfolding it. -/

namespace Sys2Proof

/-! ### The default parameters -/

@[simp] theorem Config.params_top : Config.params.top = 256 := rfl
@[simp] theorem Config.params_fSub : Config.params.fSub = 2000000 := rfl
@[simp] theorem Config.params_adcBits : Config.params.adcBits = 10 := rfl
@[simp] theorem Config.params_t1 : Config.params.t1 = 250 := rfl
@[simp] theorem Config.params_t2 : Config.params.t2 = 500 := rfl
@[simp] theorem Config.params_t3 : Config.params.t3 = 750 := rfl

theorem Config.adcLatMax_lt_top : Config.params.adcLatMax < Config.params.top := Config.adcLatMax.isLt

end Sys2Proof

namespace Sys2Proof.Machine

/-! ### Arithmetic -/

theorem satInc16_toNat (v : Half) : (satInc16 v).toNat = min (v.toNat + 1) 0xFFFF := by
  simp only [satInc16, BitVec.toNat_ofNat]
  omega

theorem satDec16_toNat (v : Half) : (satDec16 v).toNat = v.toNat - 1 := by
  have := v.isLt
  simp only [satDec16, BitVec.toNat_ofNat]
  omega

theorem shiftHistory_eq_ofNat (h : BitVec 5) (r : Bool) : shiftHistory h r = BitVec.ofNat 5 (2 * h.toNat + r.toNat) := by
  revert h r
  decide

/-! ### Host accesses -/

theorem completeRead_next (value : Regs → Word) (s : State) :
    completeRead value s = .next (if s.regs.busy then refuse .hostWhileBusy s else respond (.data (value s.regs)) s) := rfl

theorem completeWrite_next (effect : Regs → Regs) (s : State) :
    completeWrite effect s =
      .next (if s.regs.busy then refuse .hostWhileBusy s else { respond .ok s with regs := effect s.regs }) := rfl

theorem busErrorAccess_next {d : Dir} {ofs : Byte} {i : Instr} {s t : State} (h : busErrorAccess d ofs i s = .next t) :
    (s.regs.busy = true ∧ t = refuse .hostWhileBusy s) ∨
    (s.regs.busy = false ∧ ∃ code, busFault d ofs = some code ∧ t = raiseBusFault code i s) := by
  unfold busErrorAccess at h
  cases hb : s.regs.busy with
  | true => simp only [hb, if_true, Host.Outcome.next.injEq] at h; exact .inl ⟨rfl, h.symm⟩
  | false =>
    cases hf : busFault d ofs with
    | none => simp [hb, hf] at h
    | some code => simp [hb, hf] at h; exact .inr ⟨rfl, code, rfl, h.symm⟩

/-! ### The tick -/

@[simp] theorem Regs.chan_setChan_same (r : Regs) (c : Chan) (v : Channel) : (r.setChan c v).chan c = v := by
  cases c <;> rfl

/-- The registers after one channel's part of the tick: its own register set, ROUNDS and ABORT_PEND (R92 to R97). -/
theorem channelTick_regs (c : Chan) (r : Bool) (n : Word) (s : State) :
    (channelTick c r n s).regs =
      { s.regs.setChan c ((s.regs.chan c).sample r) with
        rounds := if (s.regs.chan c).rising r then (match c with
          | .adv => satInc16 s.regs.rounds
          | .jump => s.regs.rounds
          | .abort => 0) else s.regs.rounds
        abortPend := s.regs.abortPend || ((s.regs.chan c).rising r && c == .abort) } := by
  unfold channelTick
  cases h : (s.regs.chan c).rising r <;> cases c <;> simp [edgeAction, Regs.setChan, Regs.chan]

theorem channelTick_history (c : Chan) (r : Bool) (n : Word) (s : State) :
    (channelTick c r n s).history =
      s.history ++ if (s.regs.chan c).rising r then (match c with
        | .adv => [.advanceEdge n]
        | .jump => []
        | .abort => [.exitDisplay n]) else [] := by
  unfold channelTick
  cases h : (s.regs.chan c).rising r <;> cases c <;> simp [edgeAction]

theorem channelTick_records (c : Chan) (r : Bool) (n : Word) (s : State) :
    (channelTick c r n s).faultRecord = s.faultRecord ∧ (channelTick c r n s).refusedMark = s.refusedMark ∧
    (channelTick c r n s).freeCount = s.freeCount ∧ (channelTick c r n s).stream = s.stream := by
  unfold channelTick
  cases h : (s.regs.chan c).rising r <;> cases c <;> simp [edgeAction]

/-- The strobes of one channel's part of the tick (R41). -/
theorem channelTick_out (c : Chan) (r : Bool) (n : Word) (s : State) :
    (channelTick c r n s).out =
      if (s.regs.chan c).rising r then (match c with
        | .adv => { s.out with advStb := true }
        | .jump => s.out
        | .abort => { s.out with exitStb := true }) else s.out := by
  unfold channelTick
  cases h : (s.regs.chan c).rising r <;> cases c <;> simp [edgeAction, Outputs.strobe]

/-- The registers after phase A (R81). -/
theorem tickPhaseA_regs (raw : BitVec 3) (s : State) :
    (tickPhaseA raw s).regs =
      { s.regs with
        adv := s.regs.adv.sample (raw.getLsbD 0)
        jump := s.regs.jump.sample (raw.getLsbD 1)
        abort := s.regs.abort.sample (raw.getLsbD 2)
        rounds := if s.regs.abort.rising (raw.getLsbD 2) then 0
          else if s.regs.adv.rising (raw.getLsbD 0) then satInc16 s.regs.rounds else s.regs.rounds
        abortPend := s.regs.abortPend || s.regs.abort.rising (raw.getLsbD 2)
        tickCount := s.regs.tickCount + 1
        pwmCnt := s.regs.pwmCnt + 1
        busy := true } := by
  have hj : (Chan.jump == Chan.abort) = false := rfl
  have ha : (Chan.adv == Chan.abort) = false := rfl
  simp only [tickPhaseA, pwmTick_regs, timebaseTick_regs, adcStart_regs, channelTick_regs, Regs.setChan, Regs.chan, ha, hj,
    Bool.and_false, Bool.or_false, BEq.rfl, Bool.and_true, ite_self]
  rfl

/-- The events of phase A, in order (R81, R98). -/
theorem tickPhaseA_history (raw : BitVec 3) (s : State) :
    (tickPhaseA raw s).history =
      s.history ++ ((if s.regs.adv.rising (raw.getLsbD 0) then [.advanceEdge (s.regs.tickCount + 1)] else []) ++
        (if s.regs.abort.rising (raw.getLsbD 2) then [.exitDisplay (s.regs.tickCount + 1)] else []) ++
        [.adcStart (s.regs.tickCount + 1)]) := by
  simp only [tickPhaseA, pwmTick_history, timebaseTick_history, adcStart_history, channelTick_history, channelTick_regs,
    Regs.setChan, Regs.chan, List.append_assoc, ite_self, List.nil_append]
  rfl

theorem tickPhaseA_records (raw : BitVec 3) (s : State) :
    (tickPhaseA raw s).faultRecord = s.faultRecord ∧ (tickPhaseA raw s).refusedMark = s.refusedMark ∧
    (tickPhaseA raw s).freeCount = s.freeCount ∧ (tickPhaseA raw s).stream = s.stream := by
  simp [tickPhaseA, channelTick_records]

/-- The strobes of a tick entered with nothing on the ports (R41). -/
theorem tickPhaseA_out (raw : BitVec 3) {s : State} (h : s.out = Outputs.idle) :
    (tickPhaseA raw s).out =
      { Outputs.idle with
        adcStart := true
        advStb := s.regs.adv.rising (raw.getLsbD 0)
        exitStb := s.regs.abort.rising (raw.getLsbD 2) } := by
  simp only [tickPhaseA, pwmTick_out, timebaseTick_out, adcStart_out, channelTick_out, channelTick_regs, Regs.setChan,
    Regs.chan, Outputs.strobe, ite_self, h]
  cases s.regs.adv.rising (raw.getLsbD 0) <;> cases s.regs.abort.rising (raw.getLsbD 2) <;> rfl

/-- What SUBCLK does below the wrap, at a wrap with a conversion pending, and at a tick (R80). -/
theorem subclk_count {p : Params} {s : State} (raw : BitVec 3) (h : s.regs.subtick.toNat < p.top - 1) :
    subclk p raw s = { quiet s with regs := { s.regs with subtick := s.regs.subtick + 1 } } := by
  simp [subclk, h]

theorem subclk_overrun {p : Params} {s : State} (raw : BitVec 3) (h : ¬ s.regs.subtick.toNat < p.top - 1)
    (hb : s.regs.busy = true) : subclk p raw s = raiseOverrun (.evtSubclk raw) s := by
  simp [subclk, h, hb]

theorem subclk_tick {p : Params} {s : State} (raw : BitVec 3) (h : ¬ s.regs.subtick.toNat < p.top - 1)
    (hb : s.regs.busy = false) :
    subclk p raw s = tickPhaseA raw { quiet s with regs := { s.regs with subtick := 0 } } := by
  simp [subclk, h, hb]

/-- The registers after AdcComplete (R102 to R106). -/
theorem adcComplete_regs (p : Params) (v : Half) (s : State) :
    (adcComplete p v s).regs =
      { (if v = s.regs.adcLast then s.regs else loadTier p (classify p v.toNat) s.regs) with adcLast := v } := by
  by_cases h : v = s.regs.adcLast <;> simp [adcComplete, h]

theorem adcComplete_history (p : Params) (v : Half) (s : State) :
    (adcComplete p v s).history =
      s.history ++ if v = s.regs.adcLast then [] else [.relabel (classify p v.toNat) s.regs.tickCount] := by
  by_cases h : v = s.regs.adcLast <;> simp [adcComplete, h]

theorem adcComplete_records (p : Params) (v : Half) (s : State) :
    (adcComplete p v s).faultRecord = s.faultRecord ∧ (adcComplete p v s).refusedMark = s.refusedMark ∧
    (adcComplete p v s).freeCount = s.freeCount ∧ (adcComplete p v s).stream = s.stream := by
  by_cases h : v = s.regs.adcLast <;> simp [adcComplete, h]

/-- The relabel strobe of AdcComplete (R41, R107). -/
theorem adcComplete_out (p : Params) (v : Half) (s : State) :
    (adcComplete p v s).out =
      if v = s.regs.adcLast then s.out else { s.out with relabel := some (classify p v.toNat) } := by
  by_cases h : v = s.regs.adcLast <;> simp [adcComplete, h, Outputs.strobe]

/-- What ADC_READY does: a result too wide, no conversion pending, or phase B (R73, R83, R84). -/
theorem adcReady_wide {p : Params} {v : Half} (s : State) (h : 2 ^ p.adcBits ≤ v.toNat) :
    adcReady p v s = refuse .evtDataRsv s := by
  simp [adcReady, h]

theorem adcReady_notPending {p : Params} {v : Half} {s : State} (h : v.toNat < 2 ^ p.adcBits)
    (hb : s.regs.busy = false) : adcReady p v s = refuse .adcNotPending s := by
  simp [adcReady, Nat.not_le.mpr h, hb]

theorem adcReady_pending {p : Params} {v : Half} {s : State} (h : v.toNat < 2 ^ p.adcBits)
    (hb : s.regs.busy = true) :
    adcReady p v s =
      { adcComplete p v (quiet s) with regs := { (adcComplete p v (quiet s)).regs with busy := false } } := by
  simp [adcReady, Nat.not_le.mpr h, hb]

/-! ### Reset -/

/-- RESET leaves the registers of R42, the ports idle, and one Reset event more (R170). -/
theorem resetBlock_eq (p : Params) (s : State) :
    resetBlock p s = { s with regs := Regs.reset, out := Outputs.idle, history := s.history ++ [.reset] } := rfl

end Sys2Proof.Machine
end

