-- ==== Sys2Proof/Laws/Exec.lean ====
section
/-! SUPPORT. What one stimulus can do, said once: the inversion of `exec`, for invariants and whole-machine rules to be derived from. -/

namespace Sys2Proof.Machine

/-- The register effect of the five host writes (R138 to R142), `none` for any other stimulus. -/
def hostWriteEffect (p : Params) (i : Instr) (r : Regs) : Option Regs :=
  match i with
  | .wrRounds data => some { r with rounds := data.extractLsb' 0 16 }
  | .wrRoundsDec _ => some { r with rounds := satDec16 r.rounds }
  | .wrStatus data => some { r with abortPend := abortPendAfterWrite r.abortPend data }
  | .wrTier data => some (loadTier p (data.extractLsb' 0 2) r)
  | .wrPwmCmp data => some { r with pwmCmp := data.extractLsb' 0 8 }
  | _ => none

/-- Why a stimulus is refused (R73): a host access while BUSY = 1, or an ADC_READY that is too wide or has no conversion. -/
def RefusalCause (p : Params) (i : Instr) (s : State) (c : RefusalCode) : Prop :=
  (c = .hostWhileBusy ∧ agentOf i = some .host ∧ s.regs.busy = true) ∨
  (c = .evtDataRsv ∧ ∃ v, i = .evtAdcReady v ∧ 2 ^ p.adcBits ≤ v.toNat) ∨
  (c = .adcNotPending ∧ ∃ v, i = .evtAdcReady v ∧ v.toNat < 2 ^ p.adcBits ∧ s.regs.busy = false)

/-- Everything a stimulus can do when it answers a next state, with the parameters `p`. -/
inductive ExecResult (p : Params) (i : Instr) (s : State) : State → Prop where
  /-- Refused: only the mark is set (R73). -/
  | refused (c : RefusalCode) (cause : RefusalCause p i s c) : ExecResult p i s (refuse c s)
  /-- A completed read (R125 to R137). -/
  | read (v : Word) (host : agentOf i = some .host) (idle : s.regs.busy = false) : ExecResult p i s (respond (.data v) s)
  /-- A completed write (R138 to R142). -/
  | write (r : Regs) (effect : hostWriteEffect p i s.regs = some r) (idle : s.regs.busy = false) :
    ExecResult p i s { respond .ok s with regs := r }
  /-- A bus error (R143 to R145). -/
  | busFault (code : FaultCode) (host : agentOf i = some .host) (idle : s.regs.busy = false) (notOverrun : code ≠ .tickOverrun) :
    ExecResult p i s (raiseBusFault code i s)
  /-- SUBCLK below the wrap (R80). -/
  | count (raw : BitVec 3) (subclk : i = .evtSubclk raw) (below : s.regs.subtick.toNat < p.top - 1) :
    ExecResult p i s { quiet s with regs := { s.regs with subtick := s.regs.subtick + 1 } }
  /-- SUBCLK at a wrap with a conversion pending (R80). -/
  | overrun (raw : BitVec 3) (subclk : i = .evtSubclk raw) (wrap : ¬ s.regs.subtick.toNat < p.top - 1)
    (pending : s.regs.busy = true) : ExecResult p i s (raiseOverrun i s)
  /-- SUBCLK that is a tick (R80, R81). -/
  | tick (raw : BitVec 3) (subclk : i = .evtSubclk raw) (wrap : ¬ s.regs.subtick.toNat < p.top - 1)
    (idle : s.regs.busy = false) :
    ExecResult p i s (tickPhaseA raw { quiet s with regs := { s.regs with subtick := 0 } })
  /-- ADC_READY of the pending conversion (R83). -/
  | complete (v : Half) (ready : i = .evtAdcReady v) (fits : v.toNat < 2 ^ p.adcBits) (pending : s.regs.busy = true) :
    ExecResult p i s { adcComplete p v (quiet s) with
      regs := { (adcComplete p v (quiet s)).regs with busy := false } }
  /-- RESET (R170). -/
  | reset (isReset : i = .evtReset) :
    ExecResult p i s { s with regs := Regs.reset, out := Outputs.idle, history := s.history ++ [.reset] }

theorem busFault_ne_overrun {d : Dir} {ofs : Byte} {code : FaultCode} (h : busFault d ofs = some code) :
    code ≠ .tickOverrun := by
  unfold busFault at h
  split at h
  · cases h; decide
  · split at h
    · cases h; decide
    · split at h <;> cases h <;> decide

variable {p : Params}

theorem completeRead_result {i : Instr} {value : Regs → Word} {s t : State} (host : agentOf i = some .host)
    (h : completeRead value s = .next t) : ExecResult p i s t := by
  rw [completeRead_next] at h
  cases hb : s.regs.busy with
  | true => rw [hb] at h; cases h; exact .refused _ (.inl ⟨rfl, host, hb⟩)
  | false => rw [hb] at h; cases h; exact .read _ host hb

theorem completeWrite_result {i : Instr} {effect : Regs → Regs} {s t : State} (host : agentOf i = some .host)
    (he : hostWriteEffect p i s.regs = some (effect s.regs)) (h : completeWrite effect s = .next t) : ExecResult p i s t := by
  rw [completeWrite_next] at h
  cases hb : s.regs.busy with
  | true => rw [hb] at h; cases h; exact .refused _ (.inl ⟨rfl, host, hb⟩)
  | false => rw [hb] at h; cases h; exact .write _ he hb

theorem busErrorAccess_result {i : Instr} {d : Dir} {ofs : Byte} {s t : State} (host : agentOf i = some .host)
    (h : busErrorAccess d ofs i s = .next t) : ExecResult p i s t := by
  obtain ⟨hb, rfl⟩ | ⟨hb, code, hc, rfl⟩ := busErrorAccess_next h
  · exact .refused _ (.inl ⟨rfl, host, hb⟩)
  · exact .busFault code host hb (busFault_ne_overrun hc)

theorem subclk_result (raw : BitVec 3) (s : State) : ExecResult p (.evtSubclk raw) s (subclk p raw s) := by
  by_cases hw : s.regs.subtick.toNat < p.top - 1
  · rw [subclk_count raw hw]; exact .count raw rfl hw
  · cases hb : s.regs.busy with
    | true => rw [subclk_overrun raw hw hb]; exact .overrun raw rfl hw hb
    | false => rw [subclk_tick raw hw hb]; exact .tick raw rfl hw hb

theorem adcReady_result (v : Half) (s : State) : ExecResult p (.evtAdcReady v) s (adcReady p v s) := by
  by_cases hv : v.toNat < 2 ^ p.adcBits
  · cases hb : s.regs.busy with
    | true => rw [adcReady_pending hv hb]; exact .complete v rfl hv hb
    | false => rw [adcReady_notPending hv hb]; exact .refused _ (.inr (.inr ⟨rfl, v, rfl, hv, hb⟩))
  · rw [adcReady_wide s (Nat.not_lt.mp hv)]
    exact .refused _ (.inr (.inl ⟨rfl, v, rfl, Nat.not_lt.mp hv⟩))

/-- The inversion of `execWith`: whatever a stimulus does is one of these cases. -/
theorem execWith_result {i : Instr} {s t : State} (h : execWith p i s = .next t) : ExecResult p i s t := by
  cases i with
  | rdBtnState | rdBtnHist | rdRounds | rdStatus | rdTimeMs | rdTickCount | rdSubtick | rdAdcLast | rdTier | rdScrollMs
  | rdJumpMs | rdPwmCmp | rdPwmCnt =>
    simp only [execWith, execRdBtnState, execRdBtnHist, execRdRounds, execRdStatus, readTimeMs, execRdTickCount, execRdSubtick,
      execRdAdcLast, execRdTier, execRdScrollMs, execRdJumpMs, execRdPwmCmp, execRdPwmCnt] at h
    exact completeRead_result rfl h
  | wrRounds | wrRoundsDec | wrStatus | wrTier | wrPwmCmp =>
    simp only [execWith, execWrRounds, execWrRoundsDec, execWrStatus, writeTier, execWrPwmCmp] at h
    refine completeWrite_result rfl ?_ h
    rfl
  | evtSubclk raw => cases h; exact subclk_result raw s
  | evtAdcReady v => cases h; exact adcReady_result v s
  | evtReset => cases h; exact .reset rfl
  | rdBuserr ofs | wrBuserr ofs data => exact busErrorAccess_result rfl h

/-- The machine behind the interface is the one at the spec's defaults (log 3). -/
theorem execWith_params (i : Instr) (s : State) : execWith Config.params i s = exec i s := by
  cases i <;> rfl

theorem stepWith_params (s : State) : stepWith Config.params s = step s := by
  rw [stepWith, step, show execWith Config.params = exec from funext fun i => funext (execWith_params i)]
  rfl

theorem exec_result {i : Instr} {s t : State} (h : exec i s = .next t) : ExecResult Config.params i s t :=
  execWith_result ((execWith_params i s).trans h)

/-! ### What a stimulus answers, for states and operands that let it complete -/

theorem execWith_write {i : Instr} {s : State} {r : Regs} (effect : hostWriteEffect p i s.regs = some r)
    (idle : s.regs.busy = false) : execWith p i s = .next { respond .ok s with regs := r } := by
  cases i <;> cases effect <;>
    simp only [execWith, execWrRounds, execWrRoundsDec, execWrStatus, writeTier, execWrPwmCmp, completeWrite_next, idle] <;> rfl

theorem execWith_tick (raw : BitVec 3) {s : State} (wrap : ¬ s.regs.subtick.toNat < p.top - 1) (idle : s.regs.busy = false) :
    execWith p (.evtSubclk raw) s = .next (tickPhaseA raw { quiet s with regs := { s.regs with subtick := 0 } }) :=
  congrArg Host.Outcome.next (subclk_tick raw wrap idle)

theorem execWith_count (raw : BitVec 3) {s : State} (below : s.regs.subtick.toNat < p.top - 1) :
    execWith p (.evtSubclk raw) s = .next { quiet s with regs := { s.regs with subtick := s.regs.subtick + 1 } } :=
  congrArg Host.Outcome.next (subclk_count raw below)

theorem execWith_overrun (raw : BitVec 3) {s : State} (wrap : ¬ s.regs.subtick.toNat < p.top - 1)
    (pending : s.regs.busy = true) : execWith p (.evtSubclk raw) s = .next (raiseOverrun (.evtSubclk raw) s) :=
  congrArg Host.Outcome.next (subclk_overrun raw wrap pending)

theorem execWith_wide {v : Half} (s : State) (wide : 2 ^ p.adcBits ≤ v.toNat) :
    execWith p (.evtAdcReady v) s = .next (refuse .evtDataRsv s) :=
  congrArg Host.Outcome.next (adcReady_wide s wide)

theorem execWith_notPending {v : Half} {s : State} (fits : v.toNat < 2 ^ p.adcBits) (idle : s.regs.busy = false) :
    execWith p (.evtAdcReady v) s = .next (refuse .adcNotPending s) :=
  congrArg Host.Outcome.next (adcReady_notPending fits idle)

theorem execWith_complete {v : Half} {s : State} (fits : v.toNat < 2 ^ p.adcBits) (pending : s.regs.busy = true) :
    execWith p (.evtAdcReady v) s = .next { adcComplete p v (quiet s) with
      regs := { (adcComplete p v (quiet s)).regs with busy := false } } :=
  congrArg Host.Outcome.next (adcReady_pending fits pending)

/-! The same at the spec's defaults. -/

theorem exec_write {i : Instr} {s : State} {r : Regs} (effect : hostWriteEffect Config.params i s.regs = some r)
    (idle : s.regs.busy = false) : exec i s = .next { respond .ok s with regs := r } :=
  (execWith_params i s).symm.trans (execWith_write effect idle)

theorem exec_tick (raw : BitVec 3) {s : State} (wrap : ¬ s.regs.subtick.toNat < 255) (idle : s.regs.busy = false) :
    exec (.evtSubclk raw) s = .next (tickPhaseA raw { quiet s with regs := { s.regs with subtick := 0 } }) :=
  execWith_tick (p := Config.params) raw wrap idle

theorem exec_count (raw : BitVec 3) {s : State} (below : s.regs.subtick.toNat < 255) :
    exec (.evtSubclk raw) s = .next { quiet s with regs := { s.regs with subtick := s.regs.subtick + 1 } } :=
  execWith_count (p := Config.params) raw below

theorem exec_overrun (raw : BitVec 3) {s : State} (wrap : ¬ s.regs.subtick.toNat < 255) (pending : s.regs.busy = true) :
    exec (.evtSubclk raw) s = .next (raiseOverrun (.evtSubclk raw) s) :=
  execWith_overrun (p := Config.params) raw wrap pending

theorem exec_wide {v : Half} (s : State) (wide : 1024 ≤ v.toNat) :
    exec (.evtAdcReady v) s = .next (refuse .evtDataRsv s) :=
  execWith_wide (p := Config.params) s wide

theorem exec_notPending {v : Half} {s : State} (fits : v.toNat < 1024) (idle : s.regs.busy = false) :
    exec (.evtAdcReady v) s = .next (refuse .adcNotPending s) :=
  execWith_notPending (p := Config.params) fits idle

theorem exec_complete {v : Half} {s : State} (fits : v.toNat < 1024) (pending : s.regs.busy = true) :
    exec (.evtAdcReady v) s = .next { adcComplete Config.params v (quiet s) with
      regs := { (adcComplete Config.params v (quiet s)).regs with busy := false } } :=
  execWith_complete (p := Config.params) fits pending

/-- Everything a step can do when it answers a next state, with any decoder and dispatch: no record is set, and either the
decoded stimulus ran or the decoder's refusal was marked. -/
theorem stepBy_result {dec : List Byte → Decoded} {run : Instr → State → Host.Outcome State Fault Refusal} {s t : State}
    (h : stepBy dec run s = .next t) :
    s.faultRecord = none ∧ s.refusedMark = none ∧
    ((∃ i rest, dec s.stream = .instr i rest ∧ run i { s with stream := rest } = .next t) ∨
     (∃ code, dec s.stream = .refused code ∧ t = refuseFetched code s)) := by
  unfold stepBy at h
  split at h
  · cases h
  · cases h
  · rename_i hf hm
    refine ⟨hf, hm, ?_⟩
    split at h
    · exact .inl ⟨_, _, by assumption, h⟩
    · cases h; exact .inr ⟨_, by assumption, rfl⟩
    · cases h
    · cases h

theorem step_result {s t : State} (h : step s = .next t) :
    s.faultRecord = none ∧ s.refusedMark = none ∧
    ((∃ i rest, fetch s = .instr i rest ∧ exec i { s with stream := rest } = .next t) ∨
     (∃ code, fetch s = .refused code ∧ t = refuseFetched code s)) := stepBy_result h

/-- No record is set, as equations. -/
theorem clean_iff (s : State) : s.clean = true ↔ s.faultRecord = none ∧ s.refusedMark = none := by
  simp [State.clean]

/-- The step where no record is set and the stream decodes to a stimulus, with any decoder and dispatch. -/
theorem stepBy_instr {dec : List Byte → Decoded} (run : Instr → State → Host.Outcome State Fault Refusal) {s : State}
    {i : Instr} {rest : List Byte} (clean : s.clean = true) (head : dec s.stream = .instr i rest) :
    stepBy dec run s = run i { s with stream := rest } := by
  obtain ⟨hf, hm⟩ := (clean_iff s).1 clean
  simp [stepBy, hf, hm, head]

theorem step_instr {s : State} {i : Instr} {rest : List Byte} (clean : s.clean = true)
    (head : decode s.stream = .instr i rest) : step s = exec i { s with stream := rest } := stepBy_instr exec clean head

/-- A run begins with its first step. -/
theorem run_next {M : Host.Core} {k : Nat} {s t : M.State} (h : M.step s = .next t) : M.run (k + 1) s = M.run k t := by
  simp only [Host.Core.run, h]

end Sys2Proof.Machine
end

