-- ==== Sys2Proof/Laws/PerInstr.lean ====
section
/-! SUPPORT. Statements for all instructions, made per constructor. EncodedLength: an encoding has the length R62 and R74 give its class. -/

namespace Sys2Proof.Laws.EncodedLength

/-- The encoding has the length the class of its control word says (R74): 2 bytes for a read, 6 otherwise. -/
def Statement (i : Instr) : Prop := (encode i).length = stimulusBytes i.control

/-- The class of a control word in its two halves: the high byte decides the length. -/
theorem stimulusBytes_append (hi lo : Byte) :
    stimulusBytes (hi ++ lo) = if hi.extractLsb' 6 2 = 0b00 then 2 else 6 := by
  unfold stimulusBytes clsField
  rw [show (hi ++ lo : Half).extractLsb' 14 2 = hi.extractLsb' 6 2 from Sys2Proof.extractLsb'_high (k := 6) hi lo]

theorem rdBtnState : Statement .rdBtnState := by unfold Statement; decide
theorem rdBtnHist : Statement .rdBtnHist := by unfold Statement; decide
theorem rdRounds : Statement .rdRounds := by unfold Statement; decide
theorem rdStatus : Statement .rdStatus := by unfold Statement; decide
theorem rdTimeMs : Statement .rdTimeMs := by unfold Statement; decide
theorem rdTickCount : Statement .rdTickCount := by unfold Statement; decide
theorem rdSubtick : Statement .rdSubtick := by unfold Statement; decide
theorem rdAdcLast : Statement .rdAdcLast := by unfold Statement; decide
theorem rdTier : Statement .rdTier := by unfold Statement; decide
theorem rdScrollMs : Statement .rdScrollMs := by unfold Statement; decide
theorem rdJumpMs : Statement .rdJumpMs := by unfold Statement; decide
theorem rdPwmCmp : Statement .rdPwmCmp := by unfold Statement; decide
theorem rdPwmCnt : Statement .rdPwmCnt := by unfold Statement; decide
theorem wrRounds (data : Word) : Statement (.wrRounds data) := by
  change 6 = stimulusBytes 0x4008
  decide
theorem wrRoundsDec (data : Word) : Statement (.wrRoundsDec data) := by
  change 6 = stimulusBytes 0x400C
  decide
theorem wrStatus (data : Word) : Statement (.wrStatus data) := by
  change 6 = stimulusBytes 0x4010
  decide
theorem wrTier (data : Word) : Statement (.wrTier data) := by
  change 6 = stimulusBytes 0x4024
  decide
theorem wrPwmCmp (data : Word) : Statement (.wrPwmCmp data) := by
  change 6 = stimulusBytes 0x4030
  decide
theorem evtSubclk (raw : BitVec 3) : Statement (.evtSubclk raw) := by
  change 6 = stimulusBytes 0x8001
  decide
theorem evtAdcReady (result : Half) : Statement (.evtAdcReady result) := by
  change 6 = stimulusBytes 0x8002
  decide
theorem evtReset : Statement .evtReset := by unfold Statement; decide
theorem rdBuserr (ofs : Byte) : Statement (.rdBuserr ofs) := by
  change 2 = stimulusBytes ((0x00 : Byte) ++ ofs)
  rw [stimulusBytes_append]
  decide
theorem wrBuserr (ofs : Byte) (data : Word) : Statement (.wrBuserr ofs data) := by
  change 6 = stimulusBytes ((0x40 : Byte) ++ ofs)
  rw [stimulusBytes_append]
  decide

end Sys2Proof.Laws.EncodedLength
end

