-- ==== Sys2Proof/Laws/Runs.lean ====
section
/-! SUPPORT. What one stimulus of a run can do to the channels, SUBTICK and the PWM controller, said once for claims about runs. -/

namespace Sys2Proof.Machine

variable {p : Params}

/-- Phase A samples each channel once with its own pin (R81). -/
theorem tickPhaseA_chan (raw : BitVec 3) (s : State) (c : Chan) :
    (tickPhaseA raw s).regs.chan c = (s.regs.chan c).sample (raw.getLsbD c.number) := by
  rw [tickPhaseA_regs]
  cases c <;> rfl

/-- What a stimulus that is no tick leaves alone, in a run: the channels and the PWM counter, and SUBTICK unless it is a SUBCLK,
which then adds one to it below TOP - 1. -/
def OffTick (p : Params) (i : Instr) (s t : State) : Prop :=
  isTick p i s = false ∧ (∀ c, t.regs.chan c = s.regs.chan c) ∧ t.regs.pwmCnt = s.regs.pwmCnt ∧
  ((agentOf i = some .timer ∧ s.regs.subtick.toNat < p.top - 1 ∧ t.regs.subtick.toNat = s.regs.subtick.toNat + 1) ∨
   (agentOf i ≠ some .timer ∧ t.regs.subtick = s.regs.subtick))

/-- A stimulus of a run that is no RESET is a tick, which runs phase A, or leaves alone what `OffTick` says. -/
theorem run_step (valid : p.Valid) {i : Instr} {s t : State} (ran : execWith p i s = .next t) (clean : t.clean = true)
    (noReset : i ≠ .evtReset) :
    (∃ raw, i = .evtSubclk raw ∧ isTick p i s = true ∧
      t = tickPhaseA raw { quiet s with regs := { s.regs with subtick := 0 } }) ∨ OffTick p i s t := by
  cases execWith_result ran with
  | refused => simp [State.clean] at clean
  | busFault => simp [State.clean] at clean
  | overrun => simp [State.clean] at clean
  | read v host => exact .inr (by simp [OffTick, isTick, host])
  | write r effect =>
    right
    cases i <;> simp [hostWriteEffect] at effect <;> subst effect <;>
      exact ⟨by simp [isTick, agentOf], fun c => by cases c <;> rfl, rfl, .inr ⟨by simp [agentOf], rfl⟩⟩
  | count raw subclk below =>
    subst subclk
    refine .inr ⟨by simp [isTick, below], fun c => by cases c <;> rfl, rfl, .inl ⟨rfl, below, ?_⟩⟩
    have := valid.2.2.2.2.2.2.1
    simp [BitVec.toNat_add]
    omega
  | tick raw subclk wrap idle =>
    subst subclk
    exact .inl ⟨raw, rfl, by simp [isTick, agentOf, idle]; omega, rfl⟩
  | complete v ready =>
    subst ready
    refine .inr ⟨by simp [isTick, agentOf], fun c => ?_, ?_, .inr ⟨by simp [agentOf], ?_⟩⟩ <;> simp only [adcComplete_regs]
    · split <;> cases c <;> rfl
    · split <;> rfl
    · split <;> rfl
  | reset isReset => exact absurd isReset noReset

/-- PWM_CMP stays as it is over a stimulus of a run that is neither RESET nor a write to it (R142, R170). -/
theorem run_step_pwmCmp {i : Instr} {s t : State} (ran : execWith p i s = .next t) (clean : t.clean = true)
    (noReset : i ≠ .evtReset) (noWrite : ∀ data, i ≠ .wrPwmCmp data) : t.regs.pwmCmp = s.regs.pwmCmp := by
  cases execWith_result ran with
  | overrun => simp [State.clean] at clean
  | write r effect =>
    cases i <;> simp [hostWriteEffect] at effect <;> subst effect <;> first | rfl | exact absurd rfl (noWrite _)
  | tick raw => rw [tickPhaseA_regs]
  | complete v => simp only [adcComplete_regs]; split <;> rfl
  | reset isReset => exact absurd isReset noReset
  | _ => rfl

end Sys2Proof.Machine
end

