-- ==== Sys2Proof/Tests/Slice0.lean ====
section
/-! SUPPORT. The model's own tests: the checks of WellFormed, the decoding of every row, the vectors of spec/95_test_vectors.md, and a witness for every statement that has hypotheses. Expected values are the spec's vectors, named in each docstring. -/

namespace Sys2Proof.Tests
open Sys2Proof.Machine

/-! ### Helpers -/

/-- The reset state with other registers. -/
def withRegs (r : Regs) : State := { State.reset with regs := r }

/-- The reset state with a stream. -/
def withStream (bytes : List Byte) : State := { State.reset with stream := bytes }

/-- The reset registers with a conversion pending and this SUBTICK. -/
def pending (subtick : Half) : State := withRegs { Regs.reset with busy := true, subtick := subtick }

/-- The next state of an outcome, if it is one. -/
def after (o : Host.Outcome State Fault Refusal) : Option State :=
  match o with
  | .next s => some s
  | .fault _ => none
  | .refused _ => none

/-- A function of the state after a stimulus. -/
def effect {α : Type} (i : Instr) (s : State) (f : State → α) : Option α := (after (exec i s)).map f

/-- The value a stimulus reads. -/
def reads (i : Instr) (s : State) : Option Word := (after (exec i s)).bind State.rdata

/-- A channel one closed sample away from a press (V-DB3). -/
def almostPressed : Channel := ⟨0b01111, false, false⟩

/-- One SUBCLK away from a tick in which ADV and ABORT are about to be pressed (V-EA5). -/
def beforeEdges : State :=
  withRegs { Regs.reset with subtick := 255, rounds := 5, adv := almostPressed, abort := almostPressed }

/-! ### WellFormed: each check refuses an ill-formed term -/

theorem test_wellFormed_adcReady_width :
    (Instr.evtAdcReady 1024).wellFormed = false ∧ (Instr.evtAdcReady 1023).wellFormed = true := by decide

theorem test_wellFormed_rdBuserr_offset :
    (Instr.rdBuserr 0x08).wellFormed = false ∧ (Instr.rdBuserr 0x0C).wellFormed = true := by decide

theorem test_wellFormed_wrBuserr_offset :
    (Instr.wrBuserr 0x08 0).wellFormed = false ∧ (Instr.wrBuserr 0x14 0).wellFormed = true := by decide

theorem test_illFormed_fallback_refused :
    exec (.rdBuserr 0x08) State.reset = .refused .illFormed ∧
    exec (.wrBuserr 0x08 0) State.reset = .refused .illFormed := ⟨rfl, rfl⟩

/-! ### Decoding: the words of R70, R77 and V-EN1 to V-EN17 -/

theorem test_decode_reads :
    [0x0000, 0x0004, 0x0008, 0x0010, 0x0014, 0x0018, 0x001C, 0x0020, 0x0024, 0x0028, 0x002C, 0x0030, 0x0034].map
      (decodeTableWord 16) =
    [.rdBtnState, .rdBtnHist, .rdRounds, .rdStatus, .rdTimeMs, .rdTickCount, .rdSubtick, .rdAdcLast, .rdTier, .rdScrollMs,
      .rdJumpMs, .rdPwmCmp, .rdPwmCnt].map some := by decide

theorem test_decode_writes :
    [0x4008, 0x400C, 0x4010, 0x4024].map (decodeTableWord 16) =
      [.wrRounds 0, .wrRoundsDec 0, .wrStatus 0, .wrTier 0].map some ∧
    decodeTableWord 48 0x000000804030 = some (.wrPwmCmp 0x00000080) := by decide

theorem test_decode_events :
    decodeTableWord 48 0x000000058001 = some (.evtSubclk 0b101) ∧
    decodeTableWord 48 0x000002588002 = some (.evtAdcReady 600) ∧
    decodeTableWord 48 0x000000008003 = some .evtReset := by decide

theorem test_decode_fallbacks :
    decodeTableWord 16 0x000C = some (.rdBuserr 0x0C) ∧ decodeTableWord 16 0x0015 = some (.rdBuserr 0x15) ∧
    decodeTableWord 48 0x00000001402C = some (.wrBuserr 0x2C 0x00000001) := by decide

theorem test_decode_refusals :
    decode [0x00, 0xC0] = .refused .illClass ∧ decode [0x23, 0xC1] = .refused .illClass ∧
    decode [0x00, 0x01] = .refused .rsvCtrl ∧ decode [0x00, 0x41, 0, 0, 0, 0] = .refused .rsvCtrl ∧
    decode [0x00, 0x80, 0, 0, 0, 0] = .refused .unknownEvent ∧ decode [0x04, 0x80, 0, 0, 0, 0] = .refused .unknownEvent ∧
    decode [0x01, 0x80, 0x08, 0, 0, 0] = .refused .evtDataRsv ∧ decode [0x02, 0x80, 0x00, 0x04, 0, 0] = .refused .evtDataRsv ∧
    decode [0x03, 0x80, 0x01, 0, 0, 0] = .refused .evtDataRsv := by decide

theorem test_encode_words :
    encode .rdTimeMs = [0x14, 0x00] ∧ encode (.wrPwmCmp 0x80) = [0x30, 0x40, 0x80, 0x00, 0x00, 0x00] ∧
    encode (.evtAdcReady 600) = [0x02, 0x80, 0x58, 0x02, 0x00, 0x00] := by decide

/-- The texts of V-BE1, V-BE6, V-BE9 and the pseudo-instruction of V-HZ1, and a comment (R75, R76). -/
theorem test_parseLine :
    parseLine ['r', 'd', ' ', '@', '0', 'x', '3', '8'] = some (.words 0x0038 none) ∧
    parseLine ['w', 'r', ' ', 'T', 'I', 'M', 'E', '_', 'M', 'S', ',', ' ', '1'] = some (.words 0x4014 (some 1)) ∧
    parseLine ['w', 'r', ' ', '@', '0', 'x', '3', '9', ',', ' ', '1', ' ', ';', 'x'] = some (.words 0x4039 (some 1)) ∧
    parseLine ['t', 'i', 'c', 'k', ' ', '0', 'b', '0', '0', '1', ',', ' ', '0'] = some (.pseudo (.tick 0b001 0)) ∧
    parseLine ['s', 'u', 'b', 'c', 'l', 'k', ' ', '0', 'b', '1'] = none := by decide

theorem test_responseText :
    (Response.data 0x0000012C).text = ['-', '>', ' ', '0', 'x', '0', '0', '0', '0', '0', '1', '2', 'C'] := by decide

/-! ### Host reads -/

/-- V-HA3. -/
theorem test_rdBtnState_adv :
    reads .rdBtnState (withRegs { Regs.reset with adv := ⟨0b11111, true, true⟩ }) = some 0x00000011 := by decide

/-- V-HA4. -/
theorem test_rdBtnState_all :
    reads .rdBtnState (withRegs { Regs.reset with adv := ⟨0, true, true⟩, jump := ⟨0, true, true⟩, abort := ⟨0, true, true⟩ }) =
      some 0x00000077 := by decide

/-- V-HA5. -/
theorem test_rdBtnHist :
    reads .rdBtnHist (withRegs { Regs.reset with adv := ⟨0b00111, false, false⟩, abort := ⟨0b11111, true, true⟩ }) =
      some 0x001F0007 := by decide

/-- V-HZ1's read of ROUNDS, at the largest count. -/
theorem test_rdRounds : reads .rdRounds (withRegs { Regs.reset with rounds := 0xFFFF }) = some 0x0000FFFF := by decide

/-- V-HA11: the read gives 1 and does not clear. -/
theorem test_rdStatus_keeps :
    reads .rdStatus (withRegs { Regs.reset with abortPend := true }) = some 0x00000001 ∧
    effect .rdStatus (withRegs { Regs.reset with abortPend := true }) (·.regs.abortPend) = some true := by decide

/-- V-TB3, V-TB4. -/
theorem test_rdTimeMs_step :
    reads .rdTimeMs (withRegs { Regs.reset with tickCount := 7, subtick := 207 }) = some 0x00000000 ∧
    reads .rdTimeMs (withRegs { Regs.reset with tickCount := 7, subtick := 208 }) = some 0x00000001 := by decide

/-- V-TB11, the largest value. -/
theorem test_rdTimeMs_largest :
    reads .rdTimeMs (withRegs { Regs.reset with tickCount := 0xFFFFFFFF, subtick := 255 }) = some 0x20C49BA5 := by decide

/-- V-HZ3's read of TICK_COUNT, at the largest count. -/
theorem test_rdTickCount : reads .rdTickCount (withRegs { Regs.reset with tickCount := 0xFFFFFFFF }) = some 0xFFFFFFFF := by decide

/-- V-HZ3's read of SUBTICK, at the value before a tick. -/
theorem test_rdSubtick : reads .rdSubtick (withRegs { Regs.reset with subtick := 255 }) = some 0x000000FF := by decide

/-- V-HA16. -/
theorem test_rdAdcLast : reads .rdAdcLast (withRegs { Regs.reset with adcLast := 600 }) = some 0x00000258 := by decide

/-- V-RS1, and the highest code. -/
theorem test_rdTier :
    reads .rdTier State.reset = some 0x00000000 ∧ reads .rdTier (withRegs { Regs.reset with tier := 3 }) = some 0x00000003 := by
  decide

/-- V-HA1. -/
theorem test_rdScrollMs : reads .rdScrollMs State.reset = some 0x0000012C := by decide

/-- V-HA2. -/
theorem test_rdJumpMs : reads .rdJumpMs State.reset = some 0x000001F4 := by decide

/-- V-HA15: the write takes eight bits, and the read gives them. -/
theorem test_rdPwmCmp :
    (after (exec (.wrPwmCmp 0x1FF) State.reset)).bind (reads .rdPwmCmp) = some 0x000000FF := by decide

/-- V-PWM4, V-PWM5. -/
theorem test_rdPwmCnt :
    reads .rdPwmCnt (withRegs { Regs.reset with pwmCnt := 127, pwmCmp := 128 }) = some 0x0000017F ∧
    reads .rdPwmCnt (withRegs { Regs.reset with pwmCnt := 128, pwmCmp := 128 }) = some 0x00000080 := by decide

/-! ### Host writes -/

/-- V-HA6. -/
theorem test_wrRounds : effect (.wrRounds 0x00010003) State.reset (·.regs.rounds) = some 3 := by decide

/-- V-HA7. -/
theorem test_wrRoundsDec_ignores_data :
    effect (.wrRoundsDec 0xFFFFFFFF) (withRegs { Regs.reset with rounds := 1 }) (·.regs.rounds) = some 0 := by decide

/-- V-HA8. -/
theorem test_wrRoundsDec_saturates : effect (.wrRoundsDec 0) State.reset (·.regs.rounds) = some 0 := by decide

/-- V-HA9, V-HA10. -/
theorem test_wrStatus :
    effect (.wrStatus 0) (withRegs { Regs.reset with abortPend := true }) (·.regs.abortPend) = some true ∧
    effect (.wrStatus 0xFFFFFFFF) (withRegs { Regs.reset with abortPend := true }) (·.regs.abortPend) = some false := by decide

/-- V-HA12: no Relabel. -/
theorem test_wrTier_fast :
    effect (.wrTier 6) State.reset (fun t => (t.regs.tier, t.regs.scrollMs, t.regs.jumpMs, t.history)) =
      some (2, 100, 180, []) := by decide

/-- V-HA13, with the OPEN pair. -/
theorem test_wrTier_medium :
    effect (.wrTier 1) State.reset (fun t => (t.regs.tier, t.regs.scrollMs, t.regs.jumpMs)) =
      some (1, Config.medScrollMs, Config.medJumpMs) := rfl

/-- V-HA14. -/
theorem test_wrPwmCmp_at_once :
    effect (.wrPwmCmp 11) (withRegs { Regs.reset with pwmCnt := 10 }) State.pwmOut = some true := by decide

/-! ### Events -/

/-- V-SQ3. -/
theorem test_subclk_tick :
    effect (.evtSubclk 0b001) (withRegs { Regs.reset with subtick := 255 })
      (fun t => (t.regs.subtick, t.regs.tickCount, t.regs.pwmCnt)) = some (0, 1, 1) ∧
    effect (.evtSubclk 0b001) (withRegs { Regs.reset with subtick := 255 })
      (fun t => (t.regs.adv.hist, t.regs.busy, t.history)) = some (0b00001, true, [.adcStart 1]) := by decide

/-- V-EA5: both edges in one tick, in channel order. -/
theorem test_subclk_edges :
    effect (.evtSubclk 0b101) beforeEdges (fun t => (t.regs.rounds, t.regs.abortPend, t.history)) =
      some (0, true, [.advanceEdge 1, .exitDisplay 1, .adcStart 1]) := by decide

/-- V-AD3. -/
theorem test_adcReady_reclassifies :
    effect (.evtAdcReady 600) (withRegs { Regs.reset with busy := true, adcLast := 200, tickCount := 9 })
      (fun t => (t.regs.adcLast, t.regs.tier, t.regs.scrollMs, t.regs.busy, t.history)) =
    some (600, 2, 100, false, [.relabel 2 9]) := by decide

/-- V-AD5: the override survives an unchanged sample. -/
theorem test_adcReady_unchanged :
    effect (.evtAdcReady 600) (withRegs { Regs.reset with busy := true, adcLast := 600, tier := 3 })
      (fun t => (t.regs.adcLast, t.regs.tier, t.regs.busy, t.history)) = some (600, 3, false, []) := by decide

/-- V-SQ9. -/
theorem test_reset_abandons_conversion :
    effect .evtReset (pending 17) (fun t => (t.regs, t.history)) = some (Regs.reset, [.reset]) ∧
    ((after (exec .evtReset (pending 17))).bind fun t => effect (.evtAdcReady 5) t (·.refusedMark)) =
      some (some .adcNotPending) := by decide

/-! ### Bus errors -/

/-- V-BE1, V-BE3, V-BE4. -/
theorem test_rdBuserr_order :
    [0x38, 0xFD, 0x36].map (fun ofs => effect (.rdBuserr ofs) State.reset (·.out.response)) =
      [some (some (.err .busUnmapped)), some (some (.err .busMisaligned)), some (some (.err .busMisaligned))] := by decide

/-- V-BE5: the record of a read of ROUNDS_DEC, and no decrement. -/
theorem test_rdBuserr_writeOnly :
    effect (.rdBuserr 0x0C) (withRegs { Regs.reset with rounds := 3 }) (fun t => (t.regs.rounds, t.faultRecord)) =
      some (3, some ⟨.busWoRead, 0x000C, none, 0⟩) := by decide

/-- V-BE6, V-BE7: the records of writes to read-only registers. -/
theorem test_wrBuserr_readOnly :
    effect (.wrBuserr 0x14 1) State.reset (·.faultRecord) = some (some ⟨.busRoWrite, 0x4014, some 1, 0⟩) ∧
    effect (.wrBuserr 0x00 1) State.reset (·.faultRecord) = some (some ⟨.busRoWrite, 0x4000, some 1, 0⟩) := by decide

/-- V-BE8, V-BE9. -/
theorem test_wrBuserr_order :
    [0xFC, 0x39].map (fun ofs => effect (.wrBuserr ofs 1) State.reset (·.out.response)) =
      [some (some (.err .busUnmapped)), some (some (.err .busMisaligned))] := by decide

/-! ### Operations -/

/-- V-CL1 to V-CL9. -/
theorem test_classify_bands :
    [0, 250, 251, 500, 501, 750, 751, 1023].map (classify Config.params) = [0, 0, 1, 1, 2, 2, 3, 3] := by decide

/-- V-DB9: the old bit 4 is discarded. -/
theorem test_debounce_discards_oldest : Channel.sample ⟨0b11110, false, false⟩ true = ⟨0b11101, false, false⟩ := by decide

/-- V-DB14: four open samples do not release. -/
theorem test_debounce_four_opens_keep :
    (Channel.reset.samples [true, true, true, true, true, false, false, false, false]).db = true := by decide

/-- R80 and R112 at another TOP and F_SUB: with TOP = 2 and F_SUB = 1000 a tick is every second SUBCLK, 2 ms. -/
theorem test_other_params :
    (subclk { Config.params with top := 2 } 0b000 (withRegs { Regs.reset with subtick := 1 })).regs.tickCount = 1 ∧
    timeMs { Config.params with top := 2, fSub := 1000 } 3 1 = 7 := by decide

/-- The ports of R40 become stimuli in the order of R156. -/
theorem test_coincident_inputs :
    (Inputs.stimuli ⟨false, true, 0b010, true, 5, some ⟨0x08, true, 7⟩⟩) =
      [.evtSubclk 0b010, .evtAdcReady 5, .wrRounds 7] := by decide

/-! ### The step and the interface -/

/-- A table word put where the step fetches is the first stimulus after reset. -/
theorem test_withFetchWord :
    ((after (step (State.reset.withFetchWord 48 0x000000014024))).map fun t => (t.regs.tier, t.stream)) = some (1, []) ∧
    ((after (step (State.reset.withFetchWord 16 0x0028))).bind State.rdata) = some 0x0000012C := by decide

/-- Two steps of the machine behind the interface: a write and its read. -/
theorem test_core_run :
    (match Sys2Proof.core.run 2 (withStream [0x08, 0x40, 0x03, 0x00, 0x01, 0x00, 0x08, 0x00]) with
      | .next t => State.rdata t
      | .fault _ => none
      | .refused _ => none) = some 3 := rfl

/-- V-SQ10: no step follows a fault, and an empty or cut stream has no step. -/
theorem test_no_step :
    step { withStream [0x03, 0x80, 0, 0, 0, 0] with faultRecord := some ⟨.busUnmapped, 0x0038, none, 0⟩ } =
      .fault (.recorded ⟨.busUnmapped, 0x0038, none, 0⟩) ∧
    step State.reset = .refused .noStimulus ∧ step (withStream [0x03, 0x80, 0]) = .refused .truncatedStimulus :=
  ⟨rfl, rfl, rfl⟩

/-! ### Witnesses: for every statement with hypotheses, a state and operands that meet them together -/

theorem test_witness_StepRunsDecodedStimulus :
    (withStream [0x14, 0x00, 0x28]).clean = true ∧ decode (withStream [0x14, 0x00, 0x28]).stream = .instr .rdTimeMs [0x28] := by
  decide

theorem test_witness_DecodeOfEncode :
    (Instr.evtAdcReady 1023).wellFormed = true ∧ (Instr.wrBuserr 0x2C 0xFFFFFFFF).wellFormed = true := by decide

theorem test_witness_EncodeOfDecode : decode [0xFC, 0x40, 0xFF, 0xFF, 0xFF, 0xFF, 0x14] = .instr (.wrBuserr 0xFC 0xFFFFFFFF) [0x14] := by
  decide

/-- A control word for each clause, at the ends of its range. -/
theorem test_witness_ReservedEncodingsRefused :
    ((0xC000 : Half).toNat / 2 ^ 14 = 3 ∧ (0xFFFF : Half).toNat / 2 ^ 14 = 3) ∧
    ((0x0100 : Half).toNat / 2 ^ 14 ≠ 3 ∧ (0x0100 : Half).toNat / 2 ^ 8 % 2 ^ 6 ≠ 0 ∧
      (0xBF03 : Half).toNat / 2 ^ 14 ≠ 3 ∧ (0xBF03 : Half).toNat / 2 ^ 8 % 2 ^ 6 ≠ 0) ∧
    ((0x8000 : Half).toNat / 2 ^ 8 = 0x80 ∧ (0x8000 : Half).toNat % 2 ^ 8 = 0 ∧
      (0x80FF : Half).toNat / 2 ^ 8 = 0x80 ∧ (0x8004 : Half).toNat % 2 ^ 8 = 4) ∧
    2 ^ 3 ≤ (8 : Word).toNat ∧ 2 ^ 10 ≤ (1024 : Word).toNat ∧ (1 : Word) ≠ 0 ∧
    (0x00FF : Half).toNat / 2 ^ 8 = 0x00 ∧ (0x40FF : Half).toNat / 2 ^ 8 = 0x40 := by decide

theorem test_witness_RefusedStimulusSetsMark :
    (withStream [0x00, 0xC0]).clean = true ∧ decode (withStream [0x00, 0xC0]).stream = .refused .illClass := by decide

/-- A faulted state, a marked state, and a busy state without a record. -/
theorem test_witness_RecordedStateHasNoStep :
    State.clean { State.reset with faultRecord := some ⟨.tickOverrun, 0x8001, some 0, 1⟩ } = false ∧
    State.clean { State.reset with refusedMark := some .illClass } = false ∧
    (pending 0).clean = true ∧ (pending 0).regs.busy = true := by decide

theorem test_witness_RecordsNeverCleared :
    ∃ t, exec .evtReset
        { State.reset with faultRecord := some ⟨.busUnmapped, 0x0038, none, 0⟩, refusedMark := some .illClass } = .next t ∧
      t.faultRecord.isSome = true ∧ t.refusedMark.isSome = true := ⟨_, rfl, rfl, rfl⟩

/-- A step whose history grows. -/
theorem test_witness_HistoryOnlyGrows :
    ∃ t, step (withStream [0x03, 0x80, 0, 0, 0, 0]) = .next t ∧ t.history = [.reset] := ⟨_, rfl, rfl⟩

/-- A pending conversion, a host stimulus, and the ADC_READY that ends it. -/
theorem test_witness_HostHeldWhileBusy :
    agentOf (.rdBtnState) = some .host ∧ (pending 17).regs.busy = true ∧ (pending 17).clean = true ∧
    (1023 : Half).toNat < 2 ^ 10 ∧ ∃ t, exec (.evtAdcReady 1023) (pending 17) = .next t :=
  ⟨rfl, rfl, rfl, by decide, _, rfl⟩

/-- The premise of every statement about a host access: no conversion is pending. -/
theorem test_witness_hostIdle : State.reset.regs.busy = false ∧ (withRegs { Regs.reset with subtick := 255 }).regs.busy = false := by
  decide

/-- ButtonReads, RoundsAndStatusReads, TimebaseReads, AnalogReads, PwmReads: registers all set, host idle. -/
theorem test_witness_reads :
    ∃ s : State, s.regs.busy = false ∧ s.regs.adv = ⟨0b11111, true, true⟩ ∧ s.regs.rounds = 0xFFFF ∧ s.regs.abortPend = true ∧
      s.regs.tickCount = 0xFFFFFFFF ∧ s.regs.subtick = 255 ∧ s.regs.pwmCmp = 255 :=
  ⟨withRegs { Regs.reset with
    adv := ⟨0b11111, true, true⟩, rounds := 0xFFFF, abortPend := true, tickCount := 0xFFFFFFFF, subtick := 255, pwmCmp := 255 },
   rfl, rfl, rfl, rfl, rfl, rfl, rfl⟩

/-- WriteRounds, WriteRoundsDec, WriteStatus, WritePwmCmp and the four clauses of WriteTier. -/
theorem test_witness_writes :
    State.reset.regs.busy = false ∧ (4 : Word).toNat % 4 = 0 ∧ (0xFFFFFFFD : Word).toNat % 4 = 1 ∧ (6 : Word).toNat % 4 = 2 ∧
    (0xFFFFFFFF : Word).toNat % 4 = 3 ∧ (0xFFFFFFFF : Word).toNat % 2 = 1 ∧
    (effect (.wrPwmCmp 0xFFFFFFFF) State.reset State.pwmOut) = some true := by decide

theorem test_witness_RepeatedAccesses :
    (withRegs { Regs.reset with rounds := 1 }).regs.busy = false ∧
    Instr.wrTier 3 ∈ [Instr.wrRounds 3, .wrTier 3, .wrPwmCmp 3, .wrStatus 3] := by decide

/-- One offset for each code of a bus error read. -/
theorem test_witness_BusErrorReads :
    State.reset.regs.busy = false ∧ (Instr.rdBuserr 0x35).wellFormed = true ∧ (Instr.rdBuserr 0x38).wellFormed = true ∧
    (Instr.rdBuserr 0x0C).wellFormed = true := by decide

/-- One offset for each code of a bus error write. -/
theorem test_witness_BusErrorWrites :
    State.reset.regs.busy = false ∧ (Instr.wrBuserr 0x39 1).wellFormed = true ∧ (Instr.wrBuserr 0x38 1).wellFormed = true ∧
    (Instr.wrBuserr 0x34 1).wellFormed = true := by decide

/-- The last count, an overrun (V-SQ6) and a tick (V-SQ3). -/
theorem test_witness_SubclkCountsFaultsOrTicks :
    (withRegs { Regs.reset with subtick := 254 }).regs.subtick.toNat < 255 ∧
    (¬ (pending 255).regs.subtick.toNat < 255 ∧ (pending 255).regs.busy = true) ∧
    (¬ beforeEdges.regs.subtick.toNat < 255 ∧ beforeEdges.regs.busy = false) := by decide

/-- V-SQ6. -/
theorem test_witness_OverrunRecord :
    ¬ (pending 255).regs.subtick.toNat < 255 ∧ (pending 255).regs.busy = true ∧
    effect (.evtSubclk 0b000) (pending 255) (·.faultRecord) = some (some ⟨.tickOverrun, 0x8001, some 0, 0⟩) := by
  refine ⟨by decide, by decide, rfl⟩

/-- An advance edge without an abort edge, and no edge at all. -/
theorem test_witness_AdvanceEdgeCountsRound :
    ¬ beforeEdges.regs.subtick.toNat < 255 ∧ beforeEdges.regs.busy = false ∧
    beforeEdges.regs.abort.rising ((0b001 : BitVec 3).getLsbD 2) = false ∧
    beforeEdges.regs.adv.rising ((0b001 : BitVec 3).getLsbD 0) = true ∧
    beforeEdges.regs.adv.rising ((0b000 : BitVec 3).getLsbD 0) = false := by decide

theorem test_witness_AbortEdgeEndsSession :
    ¬ beforeEdges.regs.subtick.toNat < 255 ∧ beforeEdges.regs.busy = false ∧
    beforeEdges.regs.abort.rising ((0b101 : BitVec 3).getLsbD 2) = true := by decide

/-- A pending conversion: the same sample, and a changed one at each end of each band. -/
theorem test_witness_AdcReadyCompletesTick :
    (pending 0).regs.busy = true ∧ (0 : Half) = (pending 0).regs.adcLast ∧ (1023 : Half).toNat < 2 ^ 10 ∧
    ((250 : Half) ≠ (pending 0).regs.adcLast ∧ (1023 : Half) ≠ (pending 0).regs.adcLast) ∧
    (250 : Half).toNat ≤ 250 ∧ (250 < (251 : Half).toNat ∧ (500 : Half).toNat ≤ 500) ∧
    (500 < (501 : Half).toNat ∧ (750 : Half).toNat ≤ 750) ∧ 750 < (751 : Half).toNat ∧
    State.reset.regs.busy = false :=
  ⟨rfl, rfl, by decide, by decide, by decide, by decide, by decide, by decide, rfl⟩

/-- The default parameters are valid, and so are the smallest. -/
theorem test_witness_ClassifyBands :
    Config.params.Valid ∧ Params.Valid ⟨2, 0, 1, 2, 0, 0, 0, 0, 2, 1, 1⟩ :=
  ⟨⟨by decide, by decide, by decide, by decide, by decide, by decide, by decide, by decide, Config.adcLatMax_lt_top⟩, by decide⟩

/-- A changed sample, and a stimulus that is no ADC_READY. -/
theorem test_witness_RelabelExactlyOnChange :
    (∃ t, exec (.evtAdcReady 200) (pending 0) = .next t) ∧ (200 : Half).toNat < 2 ^ 10 ∧ (pending 0).regs.busy = true ∧
    (200 : Half) ≠ (pending 0).regs.adcLast ∧ ∃ t, exec .evtReset (pending 0) = .next t :=
  ⟨⟨_, rfl⟩, by decide, rfl, by decide, _, rfl⟩

/-- A stimulus with each strobe, no mark and no overrun. -/
theorem test_witness_StrobesFollowEvents :
    effect (.evtSubclk 0b101) beforeEdges (fun t => (t.refusedMark.isNone, t.overrun, t.adcStartOut, t.advStb, t.exitStb)) =
      some (true, false, true, true, true) ∧
    effect (.evtAdcReady 600) (pending 0) (fun t => (t.refusedMark.isNone, t.overrun, t.relabelTier)) =
      some (true, false, some 2) := by decide

theorem test_witness_ResetRestoresAllRegisters :
    (1023 : Half).toNat < 2 ^ 10 ∧ effect .evtReset (pending 17) (·.regs.busy) = some false ∧
    (pending 17).clean = true ∧ agentOf .rdBtnState = some .host := by decide

theorem reset_inv : State.Inv Config.params State.reset := fun _ => ⟨by decide, by decide, rfl, by decide⟩

/-- The invariant holds before a tick, and the step answers. -/
theorem test_witness_StepKeepsInvariant :
    State.Inv Config.params (withStream [0x01, 0x80, 0, 0, 0, 0]) ∧
    ∃ t, step (withStream [0x01, 0x80, 0, 0, 0, 0]) = .next t :=
  ⟨reset_inv, _, rfl⟩

/-- A changed sample, with the tier the class of the one before. -/
theorem test_witness_TierFollowsSample :
    (pending 0).regs.tier = classify Config.params (pending 0).regs.adcLast.toNat ∧
    effect (.evtAdcReady 751) (pending 0) State.overrun = some false ∧ ∀ data, Instr.evtAdcReady 751 ≠ .wrTier data :=
  ⟨by decide, by decide, fun _ h => by cases h⟩

/-- A host write, a tick and an ADC_READY that answer a next state without an overrun. -/
theorem test_witness_StatePartitionedByWriter :
    agentOf (.wrRounds 7) = some .host ∧ effect (.wrRounds 7) State.reset State.overrun = some false ∧
    agentOf (.evtSubclk 0) = some .timer ∧ effect (.evtSubclk 0) beforeEdges State.overrun = some false ∧
    agentOf (.evtAdcReady 600) = some .adc ∧ effect (.evtAdcReady 600) (pending 0) State.overrun = some false := by decide

/-- ABORT_PEND cleared by the host. -/
theorem test_witness_AbortPendSticky :
    (withRegs { Regs.reset with abortPend := true }).regs.abortPend = true ∧
    effect (.wrStatus 1) (withRegs { Regs.reset with abortPend := true }) (fun t => (t.overrun, t.regs.abortPend)) =
      some (false, false) := by decide

/-- ROUNDS changed by a tick and by a write. -/
theorem test_witness_RoundsWriters :
    beforeEdges.regs.rounds = 5 ∧
    effect (.evtSubclk 0b001) beforeEdges (fun t => (t.overrun, t.regs.rounds)) = some (false, 6) ∧
    effect (.wrRounds 7) beforeEdges (fun t => (t.overrun, t.regs.rounds)) = some (false, 7) := by decide

/-- BUSY set by a tick, and cleared by an ADC_READY. -/
theorem test_witness_BusyLifecycle :
    beforeEdges.regs.busy = false ∧
    effect (.evtSubclk 0b000) beforeEdges (fun t => (t.overrun, t.regs.busy)) = some (false, true) ∧
    (pending 0).regs.busy = true ∧
    effect (.evtAdcReady 0) (pending 0) (fun t => (t.overrun, t.regs.busy)) = some (false, false) := by decide

/-- A pending conversion that ends within the bound, and a tick with none pending. -/
theorem test_witness_LatencyBoundPreventsOverrun :
    (pending 0).clean = true ∧ (pending 0).latencyKept Config.params ∧
    obeysLatency Config.params (.evtAdcReady 5) (pending 0) ∧ (∃ t, exec (.evtAdcReady 5) (pending 0) = .next t) ∧
    beforeEdges.clean = true ∧ beforeEdges.latencyKept Config.params ∧
    obeysLatency Config.params (.evtSubclk 0) beforeEdges ∧ ∃ t, exec (.evtSubclk 0) beforeEdges = .next t :=
  ⟨rfl, fun _ => Nat.zero_le _, (fun _ h => by cases h), ⟨_, rfl⟩, rfl, (fun h => by cases h), (fun _ _ h => by cases h), _, rfl⟩

/-- A tick at the largest TICK_COUNT, and a host access. -/
theorem test_witness_PositionCountsSubclks :
    effect (.evtSubclk 0) (withRegs { Regs.reset with subtick := 255, tickCount := 0xFFFFFFFF })
      (fun t => (t.overrun, t.regs.tickCount, t.regs.subtick)) = some (false, 0, 0) ∧
    (255 : Half).toNat < 256 ∧ Instr.evtSubclk 0 ≠ .evtReset ∧ Instr.wrRounds 7 ≠ .evtReset ∧
    effect (.wrRounds 7) beforeEdges State.overrun = some false := by decide

/-- A run of one SUBCLK from the reset state. -/
theorem test_witness_ElapsedNeverDecreases :
    State.Inv Config.params (withStream [0x01, 0x80, 0, 0, 0, 0]) ∧ (withStream [0x01, 0x80, 0, 0, 0, 0]).overrun = false ∧
    ∃ t, NoWrapRun (withStream [0x01, 0x80, 0, 0, 0, 0]) t ∧ t.regs.subtick = 1 :=
  ⟨reset_inv, rfl, { withRegs { Regs.reset with subtick := 1 } with stream := [] },
   .step (.refl _) rfl (fun _ h => by cases h) rfl (by decide), rfl⟩

theorem test_witness_ElapsedTimeOfTicks : (7 : Word).toNat ≤ (0xFFFFFFFF : Word).toNat := by decide

/-- A tick, and a host write. -/
theorem test_witness_PwmCounterIsolated :
    Instr.evtSubclk 0 ≠ .rdPwmCnt ∧ effect (.evtSubclk 0) beforeEdges State.overrun = some false ∧
    Instr.wrTier 3 ≠ .rdPwmCnt ∧ effect (.wrTier 3) beforeEdges State.overrun = some false := by decide

/-- Each clause of R99: a commit, the sequence 0, 1, 0, 1 after the reset history, and an open history before a press. -/
theorem test_witness_DebounceProperties :
    (almostPressed.sample true).db ≠ almostPressed.db ∧
    (∀ before after : List Bool,
      historySamples Channel.reset.hist ++ [false, true, false, true] =
        before ++ List.replicate 5 (!Channel.reset.db) ++ after → before = []) ∧
    Channel.reset.db = false ∧ Channel.reset.hist.getLsbD 0 = false := by
  refine ⟨by decide, ?_, by decide, by decide⟩
  intro before after h
  match before with
  | [] => rfl
  | [_] | [_, _] | [_, _, _] | [_, _, _, _] => simp [historySamples, Channel.reset, List.replicate] at h
  | _ :: _ :: _ :: _ :: _ :: _ =>
    have := congrArg List.length h
    simp [historySamples] at this
    omega

/-- A channel already pressed, with a press that goes on: five that agree on the level db has. -/
theorem test_debounce_agreeing_keep : (Channel.samples ⟨0b11111, true, true⟩ [true, true, false, true]).db = true := by decide

theorem test_witness_AdvanceAndDecrementBothCount :
    beforeEdges.regs.busy = false ∧ ¬ beforeEdges.regs.subtick.toNat < 255 ∧ (1023 : Half).toNat < 2 ^ 10 ∧
    beforeEdges.regs.adv.rising ((0b001 : BitVec 3).getLsbD 0) = true ∧
    beforeEdges.regs.abort.rising ((0b001 : BitVec 3).getLsbD 2) = false ∧
    1 ≤ beforeEdges.regs.rounds.toNat ∧ beforeEdges.regs.rounds.toNat ≤ 0xFFFE := by decide

/-- The same sample and a changed one. -/
theorem test_witness_TierOverrideLastsUntilChange :
    beforeEdges.regs.busy = false ∧ ¬ beforeEdges.regs.subtick.toNat < 255 ∧ (601 : Half).toNat < 2 ^ 10 ∧
    (0 : Half) = beforeEdges.regs.adcLast ∧ (601 : Half) ≠ beforeEdges.regs.adcLast := by decide

/-- One SUBCLK before a tick: the pseudo-instruction is two stimuli. -/
theorem test_witness_TickPseudoRunsOneTick :
    ∃ s : State, s.clean = true ∧ s.regs.subtick.toNat < 256 ∧ (5 : Half).toNat < 2 ^ 10 ∧
      (Pseudo.tick 0b001 5).expand Config.params s = some [.evtSubclk 0b001, .evtAdcReady 5] ∧
      s.stream = encodeAll [.evtSubclk 0b001, .evtAdcReady 5] ++ [] :=
  ⟨{ beforeEdges with stream := encodeAll [.evtSubclk 0b001, .evtAdcReady 5] ++ [] },
   by decide, by decide, by decide, by decide, rfl⟩

/-! ### Other parameters, and runs -/

/-- The smallest TOP and ADC_BITS that R11 allows with three thresholds. -/
def smallest : Params := ⟨2, 0, 1, 2, 0, 0, 0, 0, 2, 1, 1⟩

theorem smallest_valid : smallest.Valid := by decide

/-- A fallback's well-formedness and a wide ADC result at other parameters. -/
theorem test_witness_CodecForEveryParameters :
    smallest.Valid ∧ (Instr.evtAdcReady 3).wellFormedWith smallest = true ∧ 2 ^ smallest.adcBits ≤ (4 : Word).toNat ∧
    decodeWith smallest [0x02, 0x80, 0x03, 0, 0, 0] = .instr (.evtAdcReady 3) [] := by decide

theorem test_witness_ParametersAreArguments :
    (withStream [0x14, 0x00, 0x28]).clean = true ∧
    decodeWith smallest (withStream [0x14, 0x00, 0x28]).stream = .instr .rdTimeMs [0x28] := by decide

theorem test_witness_StepKeepsInvariantForEveryParameters :
    smallest.Valid ∧ State.Inv smallest (withStream [0x01, 0x80, 0, 0, 0, 0]) ∧
    ∃ t, stepWith smallest (withStream [0x01, 0x80, 0, 0, 0, 0]) = .next t :=
  ⟨smallest_valid, fun _ => ⟨by decide, by decide, rfl, by decide⟩, _, rfl⟩

/-- Each clause at TOP = 2: SUBTICK 0 and 1, a pending conversion and none, the largest result. -/
theorem test_witness_ParametersGovernTheRows :
    smallest.Valid ∧ State.reset.regs.subtick.toNat < smallest.top - 1 ∧
    ¬ (pending 1).regs.subtick.toNat < smallest.top - 1 ∧ (pending 1).regs.busy = true ∧
    ¬ beforeEdges.regs.subtick.toNat < smallest.top - 1 ∧ beforeEdges.regs.busy = false ∧
    (3 : Half).toNat < 2 ^ smallest.adcBits ∧ (3 : Half) ≠ (pending 1).regs.adcLast := by decide

/-- The stimuli of an infinite run at TOP = 2, with the ABORT pin held closed: count, tick, ADC_READY, over and over. -/
def turn (k : Nat) : Instr := if k % 3 = 2 then .evtAdcReady 0 else .evtSubclk 0b100

/-- The states of that run. -/
def turnStates : Nat → State
  | 0 => State.reset
  | k + 1 => (after (execWith smallest (turn k) (turnStates k))).getD State.reset

theorem turnStates_next {k : Nat} {t : State} (h : execWith smallest (turn k) (turnStates k) = .next t) :
    turnStates (k + 1) = t := by
  rw [turnStates, h]
  rfl

/-- Where the run stands at each stimulus. -/
theorem turn_at (k : Nat) :
    (turnStates k).clean = true ∧ (turnStates k).regs.subtick = (if k % 3 = 1 then 1 else 0) ∧
      (turnStates k).regs.busy = decide (k % 3 = 2) ∧
      execWith smallest (turn k) (turnStates k) = .next (turnStates (k + 1)) := by
  have step : ∀ k, (turnStates k).clean = true → (turnStates k).regs.subtick = (if k % 3 = 1 then 1 else 0) →
      (turnStates k).regs.busy = decide (k % 3 = 2) →
      execWith smallest (turn k) (turnStates k) = .next (turnStates (k + 1)) ∧ (turnStates (k + 1)).clean = true ∧
        (turnStates (k + 1)).regs.subtick = (if (k + 1) % 3 = 1 then 1 else 0) ∧
        (turnStates (k + 1)).regs.busy = decide ((k + 1) % 3 = 2) := by
    intro k hc hs hb
    have h3 : k % 3 = 0 ∨ k % 3 = 1 ∨ k % 3 = 2 := by omega
    obtain h | h | h := h3
    · have hi : turn k = .evtSubclk 0b100 := by simp [turn, h]
      simp only [h] at hs hb
      have he := execWith_count (p := smallest) 0b100 (s := turnStates k) (by rw [hs]; decide)
      rw [← hi] at he
      rw [turnStates_next he]
      refine ⟨he, hc, ?_, ?_⟩
      · simp only [hs, show (k + 1) % 3 = 1 by omega]; rfl
      · simp only [hb, show (k + 1) % 3 = 1 by omega]; rfl
    · have hi : turn k = .evtSubclk 0b100 := by simp [turn, h]
      simp only [h] at hs hb
      have he := execWith_tick (p := smallest) 0b100 (s := turnStates k) (by rw [hs]; decide) (by rw [hb]; rfl)
      rw [← hi] at he
      rw [turnStates_next he]
      refine ⟨he, ?_, ?_, ?_⟩
      · simpa [State.clean, tickPhaseA_records] using hc
      · simp only [tickPhaseA_regs, show (k + 1) % 3 = 2 by omega]; rfl
      · simp only [tickPhaseA_regs, show (k + 1) % 3 = 2 by omega]; rfl
    · have hi : turn k = .evtAdcReady 0 := by simp [turn, h]
      simp only [h] at hs hb
      have he := execWith_complete (p := smallest) (v := 0) (s := turnStates k) (by decide) (by rw [hb]; rfl)
      rw [← hi] at he
      rw [turnStates_next he]
      refine ⟨he, ?_, ?_, ?_⟩
      · simpa [State.clean, adcComplete_records] using hc
      · simp only [adcComplete_regs, show (k + 1) % 3 = 0 by omega]
        split <;> simpa [loadTier] using hs
      · simp only [show (k + 1) % 3 = 0 by omega]; rfl
  have all : ∀ k, (turnStates k).clean = true ∧ (turnStates k).regs.subtick = (if k % 3 = 1 then 1 else 0) ∧
      (turnStates k).regs.busy = decide (k % 3 = 2) := by
    intro k
    induction k with
    | zero => exact ⟨rfl, rfl, rfl⟩
    | succ k ih => exact (step k ih.1 ih.2.1 ih.2.2).2
  exact ⟨(all k).1, (all k).2.1, (all k).2.2, (step k (all k).1 (all k).2.1 (all k).2.2).1⟩

theorem turn_isRun (n : Nat) : IsRun smallest turn turnStates n :=
  fun k _ => ⟨(turn_at k).1, (turn_at k).2.2.2, (turn_at (k + 1)).1⟩

theorem turn_isTick (k : Nat) : isTick smallest (turn k) (turnStates k) = decide (k % 3 = 1) := by
  obtain ⟨-, hs, hb, -⟩ := turn_at k
  have h3 : k % 3 = 0 ∨ k % 3 = 1 ∨ k % 3 = 2 := by omega
  obtain h | h | h := h3 <;> simp only [h] at hs hb <;> simp only [isTick, turn, h, hs, hb] <;> rfl

/-- 256 ticks in 768 stimuli, with no RESET and no write to PWM_CMP. -/
theorem test_witness_PwmDuty :
    IsRun smallest turn turnStates 768 ∧
    (∀ k < 768, turn k ≠ .evtReset ∧ ∀ data, turn k ≠ .wrPwmCmp data) ∧ (ticksOf smallest turn turnStates 768).length = 256 := by
  refine ⟨turn_isRun 768, fun k _ => ?_, ?_⟩
  · by_cases h : k % 3 = 2 <;> simp [turn, h]
  · have h : ∀ m, (ticksOf smallest turn turnStates (3 * m)).length = m := by
      intro m
      induction m with
      | zero => rfl
      | succ m ih =>
        simp only [ticksOf, turn_isTick] at ih ⊢
        rw [show 3 * (m + 1) = 3 * m + 1 + 1 + 1 by omega, List.range_succ, List.range_succ, List.range_succ]
        simp only [List.filter_append, List.length_append, ih, List.filter_cons, List.filter_nil,
          show 3 * m % 3 = 0 by omega, show (3 * m + 1) % 3 = 1 by omega, show (3 * m + 1 + 1) % 3 = 2 by omega]
        rfl
    exact h 256

/-- A fair infinite run without RESET, its ABORT channel released at the start and its pin held closed. -/
theorem test_witness_FairRunsKeepTicking :
    smallest.Valid ∧ (∀ m, IsRun smallest turn turnStates m) ∧ TimerFair turn ∧ (∀ k, 0 ≤ k → turn k ≠ .evtReset) ∧
    (turnStates 0).regs.abort.db = false ∧ (turnStates 0).regs.abort.prev = false ∧
    ∀ k raw, 0 ≤ k → turn k = .evtSubclk raw → raw.getLsbD Chan.abort.number = true := by
  refine ⟨smallest_valid, turn_isRun, fun n => ⟨3 * n, by omega, ?_⟩, fun k _ => ?_, rfl, rfl, fun k raw _ h => ?_⟩
  · rw [turn, show 3 * n % 3 = 0 by omega]; rfl
  · by_cases h : k % 3 = 2 <;> simp [turn, h]
  · by_cases h3 : k % 3 = 2
    · simp [turn, h3] at h
    · simp only [turn, h3, if_false, Instr.evtSubclk.injEq] at h
      subst h
      decide

end Sys2Proof.Tests
end

section
/-! SUPPORT. The codec for every choice of the parameters of R11: which control words the decoder lets pass, what each class of them decodes to, and that decoder and encoder agree both ways. -/

namespace Sys2Proof

/-! ### The event rows (R68, R69) -/

/-- The three event codes of R68. -/
def KnownEvent (evc : Byte) : Prop := evc = 0x01 ∨ evc = 0x02 ∨ evc = 0x03

theorem controlRefusal_event {evc : Byte} (known : KnownEvent evc) : controlRefusal ((0x80 : Byte) ++ evc) = none := by
  obtain rfl | rfl | rfl := known <;> decide

/-- An event word decodes by its operands, and is refused where DATA has a bit outside them (R69, R73). -/
theorem decodeWith_eventRow (p : Params) {evc : Byte} (known : KnownEvent evc) (data : Word) (rest : List Byte) :
    decodeWith p (bytesOfHalf ((0x80 : Byte) ++ evc) ++ bytesOfWord data ++ rest) =
      (decodeEvent p evc data).elim (.refused .evtDataRsv) (.instr · rest) := by
  have cls : clsField ((0x80 : Byte) ++ evc) = 0b10 := by rw [clsField_append]; decide
  rw [decodeWith_data _ _ _ _ (controlRefusal_event known) (by rw [cls]; decide), decodeWithData, ofsField_append,
    if_neg (by rw [cls]; decide)]
  cases decodeEvent p evc data <;> rfl

theorem decodeEvent_subclk (p : Params) (raw : BitVec 3) :
    decodeEvent p 0x01 (raw.setWidth 32) = some (.evtSubclk raw) := by
  have small : (raw.setWidth 32).toNat = raw.toNat := BitVec.toNat_setWidth_of_le (by decide)
  simp [decodeEvent, small, raw.isLt]

theorem decodeEvent_adcReady {p : Params} {v : Half} (fits : v.toNat < 2 ^ p.adcBits) :
    decodeEvent p 0x02 (v.setWidth 32) = some (.evtAdcReady v) := by
  have small : (v.setWidth 32).toNat = v.toNat := BitVec.toNat_setWidth_of_le (by decide)
  simp [decodeEvent, small, fits]

theorem decodeEvent_adcReady_wide {p : Params} {data : Word} (wide : 2 ^ p.adcBits ≤ data.toNat) :
    decodeEvent p 0x02 data = none := by
  simp [decodeEvent, Nat.not_lt.mpr wide]

/-- Cutting a data word to the width its value fits in, and extending it again, gives it back. -/
theorem setWidth_setWidth_of_lt {n : Nat} {data : Word} (fits : data.toNat < 2 ^ n) :
    (data.setWidth n).setWidth 32 = data := by
  apply BitVec.eq_of_toNat_eq
  rw [BitVec.toNat_setWidth, BitVec.toNat_setWidth, Nat.mod_eq_of_lt fits, Nat.mod_eq_of_lt data.isLt]

/-- What an event word decodes to is well formed and is spelled by that word alone (R69, R70). -/
theorem decodeEvent_spelling {p : Params} (width : p.adcBits ≤ 16) {evc : Byte} {data : Word} {i : Instr}
    (known : KnownEvent evc) (decoded : decodeEvent p evc data = some i) :
    i.wellFormedWith p = true ∧ i.control = (0x80 : Byte) ++ evc ∧ i.dataWord = some data := by
  obtain rfl | rfl | rfl := known
  · obtain ⟨fits, rfl⟩ : data.toNat < 2 ^ 3 ∧ .evtSubclk (data.setWidth 3) = i := by simpa [decodeEvent] using decoded
    exact ⟨rfl, rfl, congrArg some (setWidth_setWidth_of_lt fits)⟩
  · obtain ⟨fits, rfl⟩ : data.toNat < 2 ^ p.adcBits ∧ .evtAdcReady (data.setWidth 16) = i := by
      simpa [decodeEvent] using decoded
    have fits16 : data.toNat < 2 ^ 16 := fits.trans_le (Nat.pow_le_pow_right (by decide) width)
    refine ⟨?_, rfl, congrArg some (setWidth_setWidth_of_lt fits16)⟩
    rw [Instr.wellFormedWith, BitVec.toNat_setWidth, Nat.mod_eq_of_lt fits16]
    exact decide_eq_true fits
  · obtain ⟨rfl, rfl⟩ : data = 0 ∧ .evtReset = i := by simpa [decodeEvent] using decoded
    exact ⟨rfl, rfl, rfl⟩

/-! ### The words of the three classes (R65, R70) -/

theorem encode_decodeRead (ofs : Byte) : encode (decodeRead ofs) = bytesOfHalf ((0x00 : Byte) ++ ofs) := by
  obtain ⟨-, control, noData⟩ := decodeRead_spelling Config.params ofs
  rw [encode_noData noData, control]

theorem encode_decodeWrite (ofs : Byte) (data : Word) :
    encode (decodeWrite ofs data) = bytesOfHalf ((0x40 : Byte) ++ ofs) ++ bytesOfWord data := by
  obtain ⟨-, control, hasData⟩ := decodeWrite_spelling Config.params ofs data
  rw [encode_withData hasData, control]

theorem encode_decodeEvent {p : Params} (width : p.adcBits ≤ 16) {evc : Byte} {data : Word} {i : Instr}
    (known : KnownEvent evc) (decoded : decodeEvent p evc data = some i) :
    encode i = bytesOfHalf ((0x80 : Byte) ++ evc) ++ bytesOfWord data := by
  obtain ⟨-, control, hasData⟩ := decodeEvent_spelling width known decoded
  rw [encode_withData hasData, control]

/-- The control words the decoder lets pass (R72, R73): RSV is 0, CLS is not 0b11, and an event has a code of R68. -/
theorem controlRefusal_none {hi lo : Byte} (passes : controlRefusal (hi ++ lo) = none) :
    hi = 0x00 ∨ hi = 0x40 ∨ (hi = 0x80 ∧ KnownEvent lo) := by
  have classes : ∀ b : Byte, b.extractLsb' 6 2 ≠ 0b11 → b.extractLsb' 0 6 = 0 →
      b = 0x00 ∨ b = 0x40 ∨ (b = 0x80 ∧ b.extractLsb' 6 2 = 0b10) := by decide
  rw [controlRefusal, clsField_append, rsvField_append, ofsField_append] at passes
  by_cases cls : hi.extractLsb' 6 2 = 0b11
  · rw [if_pos cls] at passes
    cases passes
  by_cases rsv : hi.extractLsb' 0 6 = 0
  · rw [if_neg cls, if_neg (not_not.mpr rsv)] at passes
    obtain read | write | ⟨event, evtCls⟩ := classes hi cls rsv
    · exact .inl read
    · exact .inr (.inl write)
    · refine .inr (.inr ⟨event, ?_⟩)
      by_contra unknown
      rw [if_pos ⟨evtCls, not_or.mp unknown |>.imp_right not_or.mp⟩] at passes
      cases passes
  · rw [if_neg cls, if_pos rsv] at passes
    cases passes

/-- A stimulus at the head of a stream, by the class of its control word (R65): what the decoder read there. -/
inductive HeadWord (p : Params) (bytes : List Byte) (i : Instr) (rest : List Byte) : Prop where
  | read (ofs : Byte) (spelled : bytes = bytesOfHalf ((0x00 : Byte) ++ ofs) ++ rest) (row : i = decodeRead ofs)
  | write (ofs : Byte) (data : Word) (spelled : bytes = bytesOfHalf ((0x40 : Byte) ++ ofs) ++ bytesOfWord data ++ rest)
    (row : i = decodeWrite ofs data)
  | event (evc : Byte) (data : Word) (known : KnownEvent evc)
    (spelled : bytes = bytesOfHalf ((0x80 : Byte) ++ evc) ++ bytesOfWord data ++ rest)
    (row : decodeEvent p evc data = some i)

/-- The decoder past a control word that carries a data word (R62, R74) answers a stimulus only where that word is there. -/
theorem decodeWith_passed_data {p : Params} {hi lo : Byte} {tail : List Byte} {i : Instr} {rest : List Byte}
    (passes : controlRefusal (halfOfBytes lo hi) = none) (cls : clsField (halfOfBytes lo hi) ≠ 0b00)
    (decoded : decodeWith p (lo :: hi :: tail) = .instr i rest) :
    ∃ data tail', lo :: hi :: tail = bytesOfHalf (halfOfBytes lo hi) ++ bytesOfWord data ++ tail' := by
  match tail with
  | d0 :: d1 :: d2 :: d3 :: tail' => exact ⟨wordOfBytes d0 d1 d2 d3, tail', by simp⟩
  | [] | [_] | [_, _] | [_, _, _] =>
    simp only [decodeWith, passes] at decoded
    rw [if_neg cls] at decoded
    cases decoded

/-- The inversion of the decoder: a decoded stimulus stands in the stream as a word of one of the three classes. -/
theorem decodeWith_headWord {p : Params} {bytes : List Byte} {i : Instr} {rest : List Byte}
    (decoded : decodeWith p bytes = .instr i rest) : HeadWord p bytes i rest := by
  match bytes with
  | [] | [_] => cases decoded
  | lo :: hi :: tail =>
    cases passes : controlRefusal (halfOfBytes lo hi) with
    | some code => simp [decodeWith, passes] at decoded
    | none =>
      obtain rfl | rfl | ⟨rfl, known⟩ := controlRefusal_none passes
      · have spelled : lo :: 0x00 :: tail = bytesOfHalf ((0x00 : Byte) ++ lo) ++ tail :=
          congrArg (· ++ tail) (bytesOfHalf_halfOfBytes lo 0x00).symm
        rw [spelled, decodeWith_readRow] at decoded
        cases decoded
        exact .read lo spelled rfl
      · obtain ⟨data, tail', spelled⟩ := decodeWith_passed_data passes (by rw [halfOfBytes, clsField_append]; decide) decoded
        rw [spelled, halfOfBytes, decodeWith_writeRow] at decoded
        cases decoded
        exact .write lo data spelled rfl
      · obtain ⟨data, tail', spelled⟩ := decodeWith_passed_data passes (by rw [halfOfBytes, clsField_append]; decide) decoded
        rw [spelled, halfOfBytes, decodeWith_eventRow p known] at decoded
        cases row : decodeEvent p lo data with
        | none => simp [row] at decoded
        | some j =>
          simp only [row, Option.elim_some] at decoded
          cases decoded
          exact .event lo data known spelled row

/-! ### Decoder and encoder agree -/

theorem decodeWith_encode_read (p : Params) (ofs : Byte) (rest : List Byte) :
    decodeWith p (encode (decodeRead ofs) ++ rest) = .instr (decodeRead ofs) rest := by
  rw [encode_decodeRead, decodeWith_readRow]

theorem decodeWith_encode_write (p : Params) (ofs : Byte) (data : Word) (rest : List Byte) :
    decodeWith p (encode (decodeWrite ofs data) ++ rest) = .instr (decodeWrite ofs data) rest := by
  rw [encode_decodeWrite, decodeWith_writeRow]

theorem decodeWith_encode_event {p : Params} (width : p.adcBits ≤ 16) {evc : Byte} {data : Word} {i : Instr}
    (known : KnownEvent evc) (decoded : decodeEvent p evc data = some i) (rest : List Byte) :
    decodeWith p (encode i ++ rest) = .instr i rest := by
  rw [encode_decodeEvent width known decoded, decodeWith_eventRow p known, decoded, Option.elim_some]

/-- Decoding an encoded well-formed stimulus gives it back, each row at its own offset or event code (R70). -/
theorem decodeWith_encode {p : Params} (width : p.adcBits ≤ 16) {i : Instr} (wf : i.wellFormedWith p = true)
    (rest : List Byte) : decodeWith p (encode i ++ rest) = .instr i rest := by
  cases i with
  | rdBtnState => exact decodeWith_encode_read p 0x00 rest
  | rdBtnHist => exact decodeWith_encode_read p 0x04 rest
  | rdRounds => exact decodeWith_encode_read p 0x08 rest
  | rdStatus => exact decodeWith_encode_read p 0x10 rest
  | rdTimeMs => exact decodeWith_encode_read p 0x14 rest
  | rdTickCount => exact decodeWith_encode_read p 0x18 rest
  | rdSubtick => exact decodeWith_encode_read p 0x1C rest
  | rdAdcLast => exact decodeWith_encode_read p 0x20 rest
  | rdTier => exact decodeWith_encode_read p 0x24 rest
  | rdScrollMs => exact decodeWith_encode_read p 0x28 rest
  | rdJumpMs => exact decodeWith_encode_read p 0x2C rest
  | rdPwmCmp => exact decodeWith_encode_read p 0x30 rest
  | rdPwmCnt => exact decodeWith_encode_read p 0x34 rest
  | wrRounds data => exact decodeWith_encode_write p 0x08 data rest
  | wrRoundsDec data => exact decodeWith_encode_write p 0x0C data rest
  | wrStatus data => exact decodeWith_encode_write p 0x10 data rest
  | wrTier data => exact decodeWith_encode_write p 0x24 data rest
  | wrPwmCmp data => exact decodeWith_encode_write p 0x30 data rest
  | evtSubclk raw => exact decodeWith_encode_event width (.inl rfl) (decodeEvent_subclk p raw) rest
  | evtAdcReady v =>
    exact decodeWith_encode_event width (.inr (.inl rfl)) (decodeEvent_adcReady (of_decide_eq_true wf)) rest
  | evtReset => exact decodeWith_encode_event width (.inr (.inr rfl)) (data := 0) rfl rest
  | rdBuserr ofs => exact decodeRead_fallback wf ▸ decodeWith_encode_read p ofs rest
  | wrBuserr ofs data => exact decodeWrite_fallback wf ▸ decodeWith_encode_write p ofs data rest

/-- What the decoder accepts is a well-formed stimulus, and the bytes are exactly its encoding (R70, R72). -/
theorem encode_of_decodeWith {p : Params} (width : p.adcBits ≤ 16) {bytes : List Byte} {i : Instr} {rest : List Byte}
    (decoded : decodeWith p bytes = .instr i rest) : i.wellFormedWith p = true ∧ bytes = encode i ++ rest := by
  cases decodeWith_headWord decoded with
  | read ofs spelled row =>
    subst row
    exact ⟨(decodeRead_spelling p ofs).1, spelled.trans (by rw [encode_decodeRead])⟩
  | write ofs data spelled row =>
    subst row
    exact ⟨(decodeWrite_spelling p ofs data).1, spelled.trans (by rw [encode_decodeWrite])⟩
  | event evc data known spelled row =>
    exact ⟨(decodeEvent_spelling width known row).1, spelled.trans (by rw [encode_decodeEvent width known row])⟩

/-- An ADC result that does not fit ADC_BITS is refused by the decoder (R69, R73). -/
theorem decodeWith_adcReady_wide {p : Params} {data : Word} (wide : 2 ^ p.adcBits ≤ data.toNat) (rest : List Byte) :
    decodeWith p (bytesOfHalf 0x8002 ++ bytesOfWord data ++ rest) = .refused .evtDataRsv := by
  have row := decodeWith_eventRow p (.inr (.inl rfl)) data rest
  rwa [decodeEvent_adcReady_wide wide] at row

end Sys2Proof
end

section
/-! SUPPORT. The rows and the invariant for every choice of the parameters of R11: what completes, what a host write leaves alone, what keeps the invariant of R43 and the latency bound of R84. -/

namespace Sys2Proof.Machine

variable {p : Params}

/-! ### Words as numbers -/

theorem ofNat_toNat_add_one (v : Half) : BitVec.ofNat 16 (v.toNat + 1) = v + 1 := by
  rw [BitVec.ofNat_add, BitVec.ofNat_toNat, BitVec.setWidth_eq]
  rfl

theorem toNat_add_one_le (v : Half) : (v + 1).toNat ≤ v.toNat + 1 := Nat.mod_le _ _

/-- DATA[1:0] as a number (R141). -/
theorem extractLsb'_two_eq_ofNat (data : Word) : data.extractLsb' 0 2 = BitVec.ofNat 2 (data.toNat % 4) := by
  apply BitVec.eq_of_toNat_eq
  simp [BitVec.extractLsb'_toNat]

/-! ### Completed accesses (R124) -/

theorem completeRead_idle (value : Regs → Word) {s : State} (idle : s.regs.busy = false) :
    completeRead value s = .next (respond (.data (value s.regs)) s) := by
  rw [completeRead_next, idle]
  rfl

/-- A stimulus that is the read of `value` completes with it where no conversion is pending. -/
theorem readCompletes_of_completeRead {i : Instr} {s : State} {value : Regs → Word} {v : Word}
    (isRead : exec i s = completeRead value s) (answers : value s.regs = v) (idle : s.regs.busy = false) :
    ReadCompletes i s v := by
  subst answers
  exact ⟨_, isRead.trans (completeRead_idle value idle), rfl, rfl, rfl, rfl, rfl, rfl⟩

/-- What the five host writes leave alone (R165): everything but ROUNDS, ABORT_PEND, the tier with its pair, and PWM_CMP. -/
theorem hostWriteEffect_frame {i : Instr} {r r' : Regs} (effect : hostWriteEffect p i r = some r') :
    (∀ c, r'.chan c = r.chan c) ∧ r'.tickCount = r.tickCount ∧ r'.subtick = r.subtick ∧ r'.adcLast = r.adcLast ∧
    r'.pwmCnt = r.pwmCnt ∧ r'.busy = r.busy := by
  cases i <;> cases effect <;> exact ⟨fun c => by cases c <;> rfl, rfl, rfl, rfl, rfl, rfl⟩

/-! ### The overrun (R80, R84) -/

theorem overrun_of_clean {s : State} (clean : s.faultRecord = none) : s.overrun = false := by
  rw [State.overrun, clean]

theorem overrun_raiseOverrun (i : Instr) (s : State) : (raiseOverrun i s).overrun = true := rfl

theorem overrun_raiseBusFault {code : FaultCode} (notOverrun : code ≠ .tickOverrun) (i : Instr) (s : State) :
    (raiseBusFault code i s).overrun = false := beq_eq_false_iff_ne.mpr notOverrun

/-- From a state with no record, a stimulus overruns only as a SUBCLK at a wrap with a conversion pending. -/
theorem ExecResult.overrun_false {i : Instr} {s t : State} (result : ExecResult p i s t) (clean : s.faultRecord = none)
    (early : ∀ raw, i = .evtSubclk raw → s.regs.busy = true → s.regs.subtick.toNat < p.top - 1) : t.overrun = false := by
  cases result with
  | refused | read | write | count | reset => exact overrun_of_clean clean
  | busFault code _ _ notOverrun => exact overrun_raiseBusFault notOverrun i s
  | overrun raw subclk wrap pending => exact absurd (early raw subclk pending) wrap
  | tick raw => exact overrun_of_clean ((tickPhaseA_records raw _).1.trans clean)
  | complete v => exact overrun_of_clean ((adcComplete_records p v _).1.trans clean)

/-! ### The invariant of R43 -/

theorem top_pos_of_valid (valid : p.Valid) : 0 < p.top := by
  obtain ⟨-, -, -, -, -, top, -⟩ := valid
  exact Nat.zero_lt_two.trans_le top

theorem Regs.inv_reset (valid : p.Valid) : Regs.reset.Inv p :=
  ⟨⟨rfl, rfl, rfl⟩, top_pos_of_valid valid, rfl, Nat.two_pow_pos _⟩

/-- LoadTier gives the pair of its own code, whatever the pair was (R105). -/
theorem Regs.Inv.loadTier {r : Regs} (inv : r.Inv p) (t : BitVec 2) : (loadTier p t r).Inv p :=
  ⟨inv.prevIsDb, inv.subtickBelowTop, rfl, inv.sampleFits⟩

theorem Regs.Inv.hostWrite {i : Instr} {r r' : Regs} (inv : r.Inv p) (effect : hostWriteEffect p i r = some r') :
    r'.Inv p := by
  cases i <;> cases effect
  case wrTier data => exact inv.loadTier _
  all_goals exact ⟨inv.prevIsDb, inv.subtickBelowTop, inv.pairIsTable, inv.sampleFits⟩

/-- Below the wrap SUBTICK can be counted (R80). -/
theorem Regs.Inv.count {r : Regs} (inv : r.Inv p) (below : r.subtick.toNat < p.top - 1) :
    { r with subtick := r.subtick + 1 : Regs }.Inv p := by
  refine ⟨inv.prevIsDb, ?_, inv.pairIsTable, inv.sampleFits⟩
  exact (toNat_add_one_le r.subtick).trans_lt (Nat.add_lt_of_lt_sub below)

theorem Regs.Inv.wrap {r : Regs} (inv : r.Inv p) (valid : p.Valid) : { r with subtick := 0 : Regs }.Inv p :=
  ⟨inv.prevIsDb, top_pos_of_valid valid, inv.pairIsTable, inv.sampleFits⟩

theorem Regs.Inv.tickPhaseA {s : State} (inv : s.regs.Inv p) (raw : BitVec 3) : (tickPhaseA raw s).regs.Inv p := by
  rw [tickPhaseA_regs]
  exact ⟨⟨rfl, rfl, rfl⟩, inv.subtickBelowTop, inv.pairIsTable, inv.sampleFits⟩

/-- AdcComplete keeps a sample that fits, and reloads the pair where it reclassifies (R103 to R106). -/
theorem Regs.Inv.adcComplete {s : State} (inv : s.regs.Inv p) {v : Half} (fits : v.toNat < 2 ^ p.adcBits) :
    (adcComplete p v s).regs.Inv p := by
  rw [adcComplete_regs]
  split
  · exact ⟨inv.prevIsDb, inv.subtickBelowTop, inv.pairIsTable, fits⟩
  · have loaded := inv.loadTier (classify p v.toNat)
    exact ⟨loaded.prevIsDb, loaded.subtickBelowTop, loaded.pairIsTable, fits⟩

/-- Every stimulus keeps the invariant of the registers, unless it overruns (R160). -/
theorem ExecResult.inv (valid : p.Valid) {i : Instr} {s t : State} (result : ExecResult p i s t) (inv : s.regs.Inv p) :
    State.Inv p t := by
  intro noOverrun
  cases result with
  | refused | read | busFault => exact inv
  | write r effect => exact inv.hostWrite effect
  | count raw subclk below => exact inv.count below
  | overrun => cases (overrun_raiseOverrun i s).symm.trans noOverrun
  | tick raw =>
    apply Regs.Inv.tickPhaseA
    exact inv.wrap valid
  | complete v ready fits =>
    have done := Regs.Inv.adcComplete (s := quiet s) inv fits
    exact ⟨done.prevIsDb, done.subtickBelowTop, done.pairIsTable, done.sampleFits⟩
  | reset => exact Regs.inv_reset valid

/-- Every step of the machine with the parameters `p` keeps the invariant. -/
theorem stepWith_inv (valid : p.Valid) {s t : State} (inv : State.Inv p s) (stepped : stepWith p s = .next t) :
    State.Inv p t := by
  obtain ⟨noFault, -, ⟨i, rest, -, ran⟩ | ⟨code, -, rfl⟩⟩ := stepBy_result stepped
  · exact (execWith_result ran).inv valid (inv (overrun_of_clean noFault))
  · exact inv

/-! ### The latency bound (R84, R183) -/

/-- The environment's obligation keeps a pending conversion's SUBCLKs short of the wrap, since ADC_LAT_MAX is below TOP. -/
theorem obeysLatency.belowWrap {i : Instr} {s : State} (obeys : obeysLatency p i s) (bound : p.adcLatMax < p.top)
    (raw : BitVec 3) (subclk : i = .evtSubclk raw) (pending : s.regs.busy = true) : s.regs.subtick.toNat < p.top - 1 :=
  (obeys raw subclk pending).trans_le (Nat.le_sub_one_of_lt bound)

/-- Where no conversion is pending the bound says nothing. -/
theorem State.latencyKept_of_idle {s : State} (idle : s.regs.busy = false) : s.latencyKept p :=
  fun pending => absurd (idle.symm.trans pending) (by decide)

/-- A stimulus that keeps the bound, and does not overrun, leaves a state in which it is still kept. -/
theorem ExecResult.latencyKept {i : Instr} {s t : State} (result : ExecResult p i s t) (noOverrun : t.overrun = false)
    (kept : s.latencyKept p) (obeys : obeysLatency p i s) : t.latencyKept p := by
  cases result with
  | refused | read | busFault => exact kept
  | write r effect idle =>
    obtain ⟨-, -, -, -, -, busy⟩ := hostWriteEffect_frame effect
    exact State.latencyKept_of_idle (busy.trans idle)
  | count raw subclk =>
    intro pending
    exact (toNat_add_one_le s.regs.subtick).trans (obeys raw subclk pending)
  | overrun => cases (overrun_raiseOverrun i s).symm.trans noOverrun
  | tick raw =>
    intro _
    rw [tickPhaseA_regs]
    exact Nat.zero_le _
  | complete | reset => exact State.latencyKept_of_idle rfl

/-! ### The defaults (log 3) -/

theorem params_valid : Config.params.Valid := by
  refine ⟨?_, ?_, ?_, ?_, ?_, ?_, ?_, ?_, Config.adcLatMax_lt_top⟩ <;> decide

theorem coreWith_params : coreWith Config.params = core := by
  rw [coreWith, core, show stepWith Config.params = step from funext stepWith_params]

end Sys2Proof.Machine
end

section
/-! SUPPORT. The statements about the scope of the model settled: its parameters, codec, invariant, latency bound and time base. -/

namespace Sys2Proof.Machine

/-- Settles O57: both round trips from the decoder's inversion by class, and the refusal of a result too wide. -/
theorem codecForEveryParameters : Obligations.CodecForEveryParameters := by
  rintro p ⟨-, width, -⟩
  exact ⟨fun i rest wf => decodeWith_encode width wf rest, fun bytes i rest decoded => encode_of_decodeWith width decoded,
    fun d rest wide => decodeWith_adcReady_wide wide rest⟩

/-- Settles O58: the reset registers satisfy the invariant, and each case of the inversion of `execWith` keeps it. -/
theorem stepKeepsInvariantForEveryParameters : Obligations.StepKeepsInvariantForEveryParameters :=
  fun _ valid => ⟨fun _ => Regs.inv_reset valid, fun _ _ inv stepped => stepWith_inv valid inv stepped⟩

/-- Settles O46: an overrun needs a wrap with a conversion pending, which the bound rules out, and every stimulus keeps it. -/
theorem latencyBoundPreventsOverrun : Obligations.LatencyBoundPreventsOverrun := by
  intro i s t clean kept obeys ran
  have result := exec_result ran
  have noOverrun : t.overrun = false :=
    result.overrun_false ((clean_iff s).1 clean).1 (obeys.belowWrap Config.adcLatMax_lt_top)
  exact ⟨noOverrun, result.latencyKept noOverrun kept obeys⟩

/-- Settles O59: each row by the lemma for its case of SUBCLK, ADC_READY, a host write or a host read. -/
theorem parametersGovernTheRows : Obligations.ParametersGovernTheRows := by
  intro p s _
  refine ⟨fun raw below => ?_, fun raw wrap pending => ?_, fun raw wrap idle => ?_, fun v fits pending changed => ?_,
    fun data idle => ?_, fun idle => ?_⟩
  · refine ⟨_, execWith_count raw below, ?_, rfl, rfl, rfl, rfl⟩
    rw [ofNat_toNat_add_one]
  · exact ⟨_, _, execWith_overrun raw wrap pending, rfl, rfl⟩
  · refine ⟨_, execWith_tick raw wrap idle, ?_, ?_⟩
    · rw [tickPhaseA_regs, tickPhaseA_regs]
    · rw [tickPhaseA_history, tickPhaseA_history]; rfl
  · have reclassified : ¬ v = (quiet s).regs.adcLast := changed
    refine ⟨_, execWith_complete fits pending, ?_, ?_⟩
    · rw [adcComplete_regs, if_neg reclassified]
      rfl
    · exact (adcComplete_history p v (quiet s)).trans (by rw [if_neg reclassified]; rfl)
  · rw [← extractLsb'_two_eq_ofNat]
    exact ⟨_, execWith_write (i := .wrTier data) rfl idle, rfl, rfl⟩
  · exact ⟨_, completeRead_idle (fun r => timeMs p r.tickCount r.subtick) idle, rfl, rfl⟩

/-- Settles O16: each of the three is the read of its register's value, at the defaults TOP = 256 and F_SUB = 2000000. -/
theorem timebaseReads : Obligations.TimebaseReads := by
  intro s idle
  exact ⟨readCompletes_of_completeRead (value := fun r => timeMs Config.params r.tickCount r.subtick) rfl rfl idle,
    readCompletes_of_completeRead (value := Regs.tickCount) rfl rfl idle,
    readCompletes_of_completeRead (value := fun r => r.subtick.setWidth 32) rfl (BitVec.ofNat_toNat 32 _).symm idle⟩

/-- Settles O56: the interface's definitions are the parametric ones at the defaults, and a step runs the decoded stimulus
with any parameters. -/
theorem parametersAreArguments : Obligations.ParametersAreArguments :=
  ⟨params_valid, ⟨rfl, rfl, rfl, rfl, rfl, rfl⟩, fun _ => rfl, fun _ => rfl, execWith_params, stepWith_params,
    coreWith_params, fun p _ _ _ clean head => stepBy_instr (execWith p) clean head⟩

end Sys2Proof.Machine
end

section
/-! SUPPORT. What every stimulus keeps or changes of the records, the history, the ports and single registers, each derived from the inversion of `exec`; and what a step does at a refused head and in a marked state. -/

namespace Sys2Proof.Machine

/-! ### Steps that run no stimulus (R73, R87) -/

/-- The step where no record is set and the decoder refuses the head of the stream, with any decoder and dispatch. -/
theorem stepBy_refused {dec : List Byte → Decoded} (run : Instr → State → Host.Outcome State Fault Refusal) {s : State}
    {code : RefusalCode} (clean : s.clean = true) (head : dec s.stream = .refused code) :
    stepBy dec run s = .next (refuseFetched code s) := by
  obtain ⟨noFault, noMark⟩ := (clean_iff s).1 clean
  simp [stepBy, noFault, noMark, head]

/-- A marked state has no step, with any decoder and dispatch (R87). -/
theorem stepBy_marked (dec : List Byte → Decoded) (run : Instr → State → Host.Outcome State Fault Refusal) {s : State}
    {code : RefusalCode} (noFault : s.faultRecord = none) (marked : s.refusedMark = some code) :
    stepBy dec run s = .refused (.marked code) := by
  simp [stepBy, noFault, marked]

/-- Where no record is set and no conversion is pending, a host access that is offered is taken (R85). -/
theorem offer_host {i : Instr} {s : State} (host : agentOf i = some .host) (clean : s.clean = true)
    (idle : s.regs.busy = false) : offer i s = some (exec i s) := by
  simp [offer, host, Agent.enabled, clean, idle]

/-- RESET at the spec's defaults (R170). -/
theorem exec_reset (s : State) : exec .evtReset s =
    .next { s with regs := Regs.reset, out := Outputs.idle, history := s.history ++ [.reset] } :=
  congrArg Host.Outcome.next (resetBlock_eq Config.params s)

/-- No time has elapsed at TICK_COUNT = 0 and SUBTICK = 0 (R112). -/
theorem timeMs_zero (p : Params) : timeMs p 0 0 = 0 := by
  simp [timeMs]

variable {p : Params} {i : Instr} {s t : State}

/-! ### The records (R45) -/

theorem ExecResult.faultRecord_kept (result : ExecResult p i s t) (recorded : s.faultRecord.isSome = true) :
    t.faultRecord.isSome = true := by
  cases result with
  | refused | read | write | count | reset => exact recorded
  | busFault | overrun => rfl
  | tick raw => rwa [(tickPhaseA_records raw _).1]
  | complete v => exact (congrArg Option.isSome (adcComplete_records p v (quiet s)).1).trans recorded

theorem ExecResult.refusedMark_kept (result : ExecResult p i s t) (marked : s.refusedMark.isSome = true) :
    t.refusedMark.isSome = true := by
  cases result with
  | refused => rfl
  | read | write | busFault | count | overrun | reset => exact marked
  | tick raw => rwa [(tickPhaseA_records raw _).2.1]
  | complete v => exact (congrArg Option.isSome (adcComplete_records p v (quiet s)).2.1).trans marked

/-! ### The history and the strobes (R41, R44) -/

/-- The strobes of `o` pulse exactly with the events `es`. -/
def Outputs.PulsesWith (o : Outputs) (es : List Event) : Prop :=
  (o.adcStart = true ↔ ∃ n, Event.adcStart n ∈ es) ∧
  (o.advStb = true ↔ ∃ n, Event.advanceEdge n ∈ es) ∧
  (o.exitStb = true ↔ ∃ n, Event.exitDisplay n ∈ es) ∧
  ∀ tier, o.relabel = some tier ↔ ∃ n, Event.relabel tier n ∈ es

/-- No strobe, whatever the response, pulses with no event. -/
theorem Outputs.pulsesWith_nil (response : Option Response) :
    { Outputs.idle with response := response : Outputs }.PulsesWith [] := by
  simp [Outputs.PulsesWith, Outputs.idle]

/-- Reset drives no strobe (R42). -/
theorem Outputs.idle_pulsesWith_reset : Outputs.idle.PulsesWith [.reset] := by
  simp [Outputs.PulsesWith, Outputs.idle]

/-- The strobes of a tick with an advance edge or none and an abort edge or none (R81, R98). -/
theorem Outputs.tick_pulsesWith (advEdge abortEdge : Bool) (n : Word) :
    { Outputs.idle with adcStart := true, advStb := advEdge, exitStb := abortEdge : Outputs }.PulsesWith
      ((if advEdge then [.advanceEdge n] else []) ++ (if abortEdge then [.exitDisplay n] else []) ++ [.adcStart n]) := by
  cases advEdge <;> cases abortEdge <;> simp [Outputs.PulsesWith, Outputs.idle]

theorem Outputs.relabel_pulsesWith (tier : BitVec 2) (n : Word) :
    { Outputs.idle with relabel := some tier : Outputs }.PulsesWith [.relabel tier n] := by
  simp [Outputs.PulsesWith, Outputs.idle, eq_comm]

theorem tickPhaseA_pulses (raw : BitVec 3) {s : State} (noStrobe : s.out = Outputs.idle) :
    ∃ es, (tickPhaseA raw s).history = s.history ++ es ∧ (tickPhaseA raw s).out.PulsesWith es := by
  refine ⟨_, tickPhaseA_history raw s, ?_⟩
  rw [tickPhaseA_out raw noStrobe]
  exact Outputs.tick_pulsesWith _ _ _

theorem adcComplete_pulses (p : Params) (v : Half) (s : State) :
    ∃ es, (adcComplete p v (quiet s)).history = s.history ++ es ∧ (adcComplete p v (quiet s)).out.PulsesWith es := by
  refine ⟨_, adcComplete_history p v (quiet s), ?_⟩
  rw [adcComplete_out]
  split
  · exact Outputs.pulsesWith_nil none
  · exact Outputs.relabel_pulsesWith _ _

/-- A stimulus appends some events to the history; and unless it is refused, which holds the ports (log 8), or overruns, which
leaves them unspecified (R160), its strobes pulse exactly with them. -/
theorem ExecResult.history_pulses (result : ExecResult p i s t) :
    ∃ es, t.history = s.history ++ es ∧ (t.refusedMark = none → t.overrun = false → t.out.PulsesWith es) := by
  cases result with
  | refused =>
    refine ⟨[], (List.append_nil _).symm, ?_⟩
    rintro ⟨⟩
  | read | write | busFault | count =>
    exact ⟨[], (List.append_nil _).symm, fun _ _ => Outputs.pulsesWith_nil _⟩
  | overrun =>
    refine ⟨[], (List.append_nil _).symm, fun _ noOverrun => ?_⟩
    cases (overrun_raiseOverrun i s).symm.trans noOverrun
  | tick raw =>
    obtain ⟨es, appended, pulses⟩ :=
      tickPhaseA_pulses raw (s := { quiet s with regs := { s.regs with subtick := 0 } }) rfl
    exact ⟨es, appended, fun _ _ => pulses⟩
  | complete v =>
    obtain ⟨es, appended, pulses⟩ := adcComplete_pulses p v s
    exact ⟨es, appended, fun _ _ => pulses⟩
  | reset => exact ⟨_, rfl, fun _ _ => Outputs.idle_pulsesWith_reset⟩

/-! ### What a host write and AdcComplete do to single registers -/

theorem hostWriteEffect_rounds {r r' : Regs} (effect : hostWriteEffect p i r = some r') :
    r'.rounds = r.rounds ∨ (∃ data, i = .wrRounds data) ∨ ∃ data, i = .wrRoundsDec data := by
  cases i <;> cases effect
  case wrRounds data => exact .inr (.inl ⟨data, rfl⟩)
  case wrRoundsDec data => exact .inr (.inr ⟨data, rfl⟩)
  all_goals exact .inl rfl

theorem hostWriteEffect_tier {r r' : Regs} (effect : hostWriteEffect p i r = some r') :
    r'.tier = r.tier ∨ ∃ data, i = .wrTier data := by
  cases i <;> cases effect
  case wrTier data => exact .inr ⟨data, rfl⟩
  all_goals exact .inl rfl

theorem hostWriteEffect_abortPend {r r' : Regs} (effect : hostWriteEffect p i r = some r') :
    r'.abortPend = r.abortPend ∨ ∃ data, i = .wrStatus data ∧ r'.abortPend = abortPendAfterWrite r.abortPend data := by
  cases i <;> cases effect
  case wrStatus data => exact .inr ⟨data, rfl, rfl⟩
  all_goals exact .inl rfl

/-- A write to STATUS that takes ABORT_PEND from 1 to 0 has DATA[0] = 1 (R140). -/
theorem data_odd_of_abortPend_cleared {data : Word} (cleared : abortPendAfterWrite true data = false) :
    data.toNat % 2 = 1 := by
  simpa [abortPendAfterWrite, BitVec.getLsbD, Nat.testBit_zero] using cleared

/-- AdcComplete writes the sample and the tier with its pair alone (R102 to R106). -/
theorem adcComplete_frame (p : Params) (v : Half) (s : State) :
    (adcComplete p v s).regs.rounds = s.regs.rounds ∧ (adcComplete p v s).regs.abortPend = s.regs.abortPend := by
  rw [adcComplete_regs]
  split <;> exact ⟨rfl, rfl⟩

/-! ### Who writes a register: TIER, ABORT_PEND, ROUNDS and BUSY -/

/-- AdcComplete keeps the tier the class of the sample, whether the sample changed or not (R103). -/
theorem adcComplete_tier (v : Half) (follows : s.regs.tier = classify p s.regs.adcLast.toNat) :
    (adcComplete p v s).regs.tier = classify p (adcComplete p v s).regs.adcLast.toNat := by
  rw [adcComplete_regs]
  split
  next same => rw [same]; exact follows
  next => rfl

theorem ExecResult.tier_follows (result : ExecResult p i s t) (noOverrun : t.overrun = false)
    (noWrite : ∀ data, i ≠ .wrTier data) (follows : s.regs.tier = classify p s.regs.adcLast.toNat) :
    t.regs.tier = classify p t.regs.adcLast.toNat := by
  cases result with
  | refused | read | busFault | count => exact follows
  | write r effect =>
    obtain ⟨-, -, -, sample, -⟩ := hostWriteEffect_frame effect
    obtain tier | ⟨data, isWrite⟩ := hostWriteEffect_tier effect
    · exact tier.trans (sample ▸ follows)
    · exact absurd isWrite (noWrite data)
  | overrun => cases (overrun_raiseOverrun i s).symm.trans noOverrun
  | tick raw => rwa [tickPhaseA_regs]
  | complete v => exact adcComplete_tier (s := quiet s) v follows
  | reset => rfl

theorem ExecResult.abortPend_cleared (result : ExecResult p i s t) (noOverrun : t.overrun = false)
    (raised : s.regs.abortPend = true) (cleared : t.regs.abortPend = false) :
    i = .evtReset ∨ ∃ data : Word, i = .wrStatus data ∧ data.toNat % 2 = 1 := by
  cases result with
  | refused | read | busFault | count => cases raised.symm.trans cleared
  | write r effect =>
    obtain kept | ⟨data, isWrite, written⟩ := hostWriteEffect_abortPend effect
    · cases (kept.trans raised).symm.trans cleared
    · rw [raised] at written
      exact .inr ⟨data, isWrite, data_odd_of_abortPend_cleared (written.symm.trans cleared)⟩
  | overrun => cases (overrun_raiseOverrun i s).symm.trans noOverrun
  | tick raw => simp [tickPhaseA_regs, raised] at cleared
  | complete v => cases ((adcComplete_frame p v (quiet s)).2.trans raised).symm.trans cleared
  | reset isReset => exact .inl isReset

theorem ExecResult.rounds_changed (result : ExecResult p i s t) (noOverrun : t.overrun = false)
    (changed : t.regs.rounds ≠ s.regs.rounds) :
    (∃ raw, i = .evtSubclk raw ∧ s.regs.busy = false ∧ ¬ s.regs.subtick.toNat < p.top - 1) ∨
    (∃ data, i = .wrRounds data) ∨ (∃ data, i = .wrRoundsDec data) ∨ i = .evtReset := by
  cases result with
  | refused | read | busFault | count => exact absurd rfl changed
  | write r effect =>
    obtain kept | rounds | dec := hostWriteEffect_rounds effect
    · exact absurd kept changed
    · exact .inr (.inl rounds)
    · exact .inr (.inr (.inl dec))
  | overrun => cases (overrun_raiseOverrun i s).symm.trans noOverrun
  | tick raw subclk wrap idle => exact .inl ⟨raw, subclk, idle, wrap⟩
  | complete v => exact absurd (adcComplete_frame p v (quiet s)).1 changed
  | reset isReset => exact .inr (.inr (.inr isReset))

/-- BUSY is set by a tick alone: the SUBCLK wrapped, TICK_COUNT went up by one and AdcStart was emitted (R81, R82). -/
theorem ExecResult.busy_set (result : ExecResult p i s t) (noOverrun : t.overrun = false) (idle : s.regs.busy = false)
    (pending : t.regs.busy = true) :
    (∃ raw, i = .evtSubclk raw) ∧ Event.adcStart (s.regs.tickCount + 1) ∈ t.history ∧
      t.regs.tickCount = s.regs.tickCount + 1 ∧ t.regs.subtick = 0 := by
  cases result with
  | refused | read | busFault | count => cases idle.symm.trans pending
  | write r effect =>
    obtain ⟨-, -, -, -, -, busy⟩ := hostWriteEffect_frame effect
    cases (busy.trans idle).symm.trans pending
  | overrun => cases (overrun_raiseOverrun i s).symm.trans noOverrun
  | tick raw subclk =>
    rw [tickPhaseA_regs, tickPhaseA_history]
    exact ⟨⟨raw, subclk⟩, by simp, rfl, rfl⟩
  | complete | reset => cases pending

theorem ExecResult.busy_cleared (result : ExecResult p i s t) (noOverrun : t.overrun = false)
    (pending : s.regs.busy = true) (idle : t.regs.busy = false) : i = .evtReset ∨ ∃ v, i = .evtAdcReady v := by
  cases result with
  | refused | read | busFault | count => cases pending.symm.trans idle
  | write r effect wasIdle => cases wasIdle.symm.trans pending
  | overrun => cases (overrun_raiseOverrun i s).symm.trans noOverrun
  | tick raw subclk wrap wasIdle => cases wasIdle.symm.trans pending
  | complete v ready => exact .inr ⟨v, ready⟩
  | reset isReset => exact .inl isReset

end Sys2Proof.Machine
end

section
/-! SUPPORT. The register window as the access procedure of R124 sees it, said once for both directions: which accesses are bus errors, and that each RD and WR row runs the procedure. -/

namespace Sys2Proof.Machine

/-! ### The rows and the register map (R22, R70) -/

/-- The offsets of a direction's exact rows (R70). -/
def Dir.exactOffsets (d : Dir) : List Byte :=
  match d with
  | .rd => exactReadOffsets
  | .wr => exactWriteOffsets

/-- The row a direction's word decodes to (R70). A read has no data word. -/
def Dir.row (d : Dir) (ofs : Byte) (data : Word) : Instr :=
  match d with
  | .rd => decodeRead ofs
  | .wr => decodeWrite ofs data

/-- A direction's fallback row (R70). -/
def Dir.fallback (d : Dir) (ofs : Byte) (data : Word) : Instr :=
  match d with
  | .rd => .rdBuserr ofs
  | .wr => .wrBuserr ofs data

/-- The access code that a direction may not access (R144, R145). -/
def Dir.forbidden (d : Dir) : Access :=
  match d with
  | .rd => .wo
  | .wr => .ro

theorem offset_of_registerAt {ofs : Byte} {reg : Register} (found : registerAt ofs = some reg) : reg.offset = ofs := by
  rw [registerAt] at found
  simpa using List.find?_some found

/-- The checks of R124 pass exactly at the offsets of the exact rows, for each of the 256 offsets. -/
theorem busFault_none_iff (d : Dir) (ofs : Byte) : busFault d ofs = none ↔ ofs ∈ d.exactOffsets := by
  revert ofs
  cases d <;> decide

/-- An access that is no bus error is of a register with an access code that the direction may access (R124). -/
theorem register_of_busFault_none {d : Dir} {ofs : Byte} (noFault : busFault d ofs = none) :
    ∃ reg, registerAt ofs = some reg ∧ reg.access ≠ d.forbidden := by
  unfold busFault at noFault
  split at noFault
  · cases noFault
  split at noFault
  · cases noFault
  cases found : registerAt ofs with
  | none => cases d <;> simp [found] at noFault
  | some reg =>
    refine ⟨reg, rfl, fun forbidden => ?_⟩
    cases d <;> simp only [Dir.forbidden] at forbidden <;> simp [found, forbidden] at noFault

/-- An access that is a bus error is of the fallback row (R70). -/
theorem Dir.row_of_busFault {d : Dir} {ofs : Byte} {code : FaultCode} (fault : busFault d ofs = some code) (data : Word) :
    d.row ofs data = d.fallback ofs data := by
  have unmatched : ofs ∉ d.exactOffsets := by
    rw [← busFault_none_iff, fault]
    exact Option.some_ne_none code
  cases d with
  | rd => exact decodeRead_fallback (by simpa [Instr.wellFormed, Instr.wellFormedWith, Dir.exactOffsets] using unmatched)
  | wr => exact decodeWrite_fallback (by simpa [Instr.wellFormed, Instr.wellFormedWith, Dir.exactOffsets] using unmatched)

/-! ### The access procedure (R124), case by case -/

/-- The access of a register by its rule: the value read, or the register written and an OK; nothing where it has no rule. -/
def accessRegister (p : Params) (d : Dir) (reg : Register) (data : Word) (s : State) : State :=
  match d with
  | .rd => (readValue p reg s.regs).elim s fun v => respond (.data v) s
  | .wr => (writeValue p reg data s.regs).elim s fun r => { respond .ok s with regs := r }

theorem hostAccess_fault {d : Dir} {ofs : Byte} {code : FaultCode} (p : Params) (data : Word) (s : State)
    (fault : busFault d ofs = some code) :
    hostAccess p d ofs data s = hostStep (raiseBusFault code (d.fallback ofs data)) s := by
  simp only [hostAccess, fault]
  cases d <;> rfl

theorem hostAccess_register {d : Dir} {ofs : Byte} {reg : Register} (p : Params) (data : Word) (s : State)
    (noFault : busFault d ofs = none) (found : registerAt ofs = some reg) :
    hostAccess p d ofs data s = hostStep (accessRegister p d reg data) s := by
  cases d with
  | rd =>
    simp only [hostAccess, hostStep, noFault, found, accessRegister]
    cases readValue p reg s.regs <;> rfl
  | wr =>
    simp only [hostAccess, hostStep, noFault, found, accessRegister]
    cases writeValue p reg data s.regs <;> rfl

theorem busErrorAccess_fault {d : Dir} {ofs : Byte} {code : FaultCode} (i : Instr) (s : State)
    (fault : busFault d ofs = some code) : busErrorAccess d ofs i s = .next (hostStep (raiseBusFault code i) s) := by
  cases busy : s.regs.busy <;> simp [busErrorAccess, hostStep, fault, busy]

/-! ### The rows run the procedure -/

theorem exec_fallback (d : Dir) (ofs : Byte) (data : Word) (s : State) :
    exec (d.fallback ofs data) s = busErrorAccess d ofs (d.fallback ofs data) s := by
  cases d <;> rfl

/-- The row at the offset of a register that the direction may access is the access of that register (R125 to R142). -/
theorem exec_row_offset {d : Dir} {reg : Register} (allowed : reg.access ≠ d.forbidden) (data : Word) (s : State) :
    exec (d.row reg.offset data) s = .next (hostStep (accessRegister Config.params d reg data) s) := by
  cases d with
  | rd =>
    cases reg
    case roundsDec => exact absurd rfl allowed
    all_goals rfl
  | wr =>
    cases reg
    case rounds | roundsDec | status | tier | pwmCmp => rfl
    all_goals exact absurd rfl allowed

/-- The row at any offset runs the access procedure. -/
theorem exec_row (d : Dir) (ofs : Byte) (data : Word) (s : State) :
    exec (d.row ofs data) s = .next (hostAccess Config.params d ofs data s) := by
  cases fault : busFault d ofs with
  | some code =>
    rw [Dir.row_of_busFault fault, exec_fallback, busErrorAccess_fault _ s fault, hostAccess_fault _ data s fault]
  | none =>
    obtain ⟨reg, found, allowed⟩ := register_of_busFault_none fault
    rw [hostAccess_register _ data s fault found, ← offset_of_registerAt found, exec_row_offset allowed]

end Sys2Proof.Machine
end

section
/-! SUPPORT. The statements about the state settled: the invariants, the records, the history and the strobes, reset, the register window, and the writers of TIER, ABORT_PEND, ROUNDS and BUSY. -/

namespace Sys2Proof.Machine

/-- Settles O40: the interface's step is the parametric one at the defaults, which keeps the invariant. -/
theorem stepKeepsInvariant : Obligations.StepKeepsInvariant :=
  fun s _ inv stepped => stepWith_inv params_valid inv ((stepWith_params s).trans stepped)

/-- Settles O6: the step answers the state with the mark, and the mark is what the next step stops on. -/
theorem refusedStimulusSetsMark : Obligations.RefusedStimulusSetsMark := by
  intro s code clean head
  have noFault : s.faultRecord = none := ((clean_iff s).1 clean).1
  exact ⟨refuseFetched code s, stepBy_refused exec clean head, rfl, noFault, rfl, rfl, rfl,
    stepBy_marked decode exec (s := refuseFetched code s) noFault rfl⟩

/-- Settles O9, by the cases of the inversion of `exec`. -/
theorem recordsNeverCleared : Obligations.RecordsNeverCleared :=
  fun _ _ _ ran => ⟨(exec_result ran).faultRecord_kept, (exec_result ran).refusedMark_kept⟩

/-- Settles O10: the stimulus of the step appends its events, and a refusal by the decoder none. -/
theorem historyOnlyGrows : Obligations.HistoryOnlyGrows := by
  intro s t stepped
  obtain ⟨-, -, ⟨i, rest, -, ran⟩ | ⟨code, -, rfl⟩⟩ := step_result stepped
  · obtain ⟨es, appended, -⟩ := (exec_result ran).history_pulses
    exact ⟨es, appended⟩
  · exact ⟨[], (List.append_nil _).symm⟩

/-- Settles O13: each row runs the access procedure at its offset, a register's own or a bus error's. -/
theorem hostRowsFollowAccessProcedure : Obligations.HostRowsFollowAccessProcedure :=
  fun s ofs data => ⟨exec_row .rd ofs 0 s, exec_row .wr ofs data s⟩

/-- Settles O36: the events a stimulus appends are those its strobes pulse with. -/
theorem strobesFollowEvents : Obligations.StrobesFollowEvents := by
  intro i s t ran noMark noOverrun
  obtain ⟨es, appended, pulses⟩ := (exec_result ran).history_pulses
  exact ⟨es, appended, pulses noMark noOverrun⟩

/-- Settles O38: RESET answers the reset registers, idle ports and one event more; with BUSY = 0 there, a host access is taken
and an ADC_READY is refused. -/
theorem resetRestoresAllRegisters : Obligations.ResetRestoresAllRegisters := by
  intro s
  refine ⟨_, exec_reset s, fun c => by cases c <;> rfl, rfl, rfl, rfl, rfl, rfl, rfl, rfl, rfl, rfl, rfl,
    congrArg BitVec.toNat (timeMs_zero Config.params), rfl, rfl, rfl, rfl, rfl, rfl, ?_, rfl, rfl, rfl, ?_⟩
  · exact fun clean i host => offer_host host clean rfl
  · exact fun v fits => exec_notPending fits rfl

/-- Settles O41, by the cases of the inversion of `exec`. -/
theorem tierFollowsSample : Obligations.TierFollowsSample :=
  fun _ _ _ ran noOverrun noWrite follows => (exec_result ran).tier_follows noOverrun noWrite follows

/-- Settles O43, by the cases of the inversion of `exec`. -/
theorem abortPendSticky : Obligations.AbortPendSticky :=
  fun _ _ _ ran noOverrun raised cleared => (exec_result ran).abortPend_cleared noOverrun raised cleared

/-- Settles O44, by the cases of the inversion of `exec`, at the default TOP = 256. -/
theorem roundsWriters : Obligations.RoundsWriters :=
  fun _ _ _ ran noOverrun changed => (exec_result ran).rounds_changed noOverrun changed

/-- Settles O45, by the cases of the inversion of `exec`. -/
theorem busyLifecycle : Obligations.BusyLifecycle :=
  fun _ _ _ ran noOverrun => ⟨(exec_result ran).busy_set noOverrun, (exec_result ran).busy_cleared noOverrun⟩

/-- Settles O12: the checks of R124 against the exact rows, over the 256 offsets. -/
theorem mappedOffsetsAreTheExactRows : Obligations.MappedOffsetsAreTheExactRows :=
  fun ofs => ⟨busFault_none_iff .rd ofs, busFault_none_iff .wr ofs⟩

/-- Settles O39: the invariant at reset for every valid choice of the parameters, and sample 0 is of tier 0. -/
theorem invariantAtReset : Obligations.InvariantAtReset :=
  ⟨fun _ => Regs.inv_reset params_valid, rfl⟩

end Sys2Proof.Machine
end

section
/-! SUPPORT. Host accesses repeated, and a ROUNDS_DEC before or after a whole tick. -/

namespace Sys2Proof.Machine

/-! ### Repeated reads (R54) -/

@[simp] theorem respond_respond (a b : Response) (s : State) : respond a (respond b s) = respond a s := rfl

/-- A read of a register leaves the registers, on which alone its answer depends; so it repeats to the same state. -/
theorem accessRegister_rd (p : Params) (reg : Register) (data : Word) (s : State) :
    (accessRegister p .rd reg data s).regs = s.regs ∧
    accessRegister p .rd reg data (accessRegister p .rd reg data s) = accessRegister p .rd reg data s := by
  cases answer : readValue p reg s.regs <;> simp [accessRegister, answer]

theorem hostStep_idle (access : State → State) {s : State} (idle : s.regs.busy = false) : hostStep access s = access s := by
  simp [hostStep, idle]

/-- The read of any offset of an exact row leaves the registers and repeats, with BUSY = 0. -/
theorem exec_decodeRead_repeats {ofs : Byte} (matched : ofs ∈ exactReadOffsets) {s : State} (idle : s.regs.busy = false) :
    ∃ t, exec (decodeRead ofs) s = .next t ∧ t.regs = s.regs ∧ exec (decodeRead ofs) t = .next t := by
  have noFault : busFault .rd ofs = none := (busFault_none_iff .rd ofs).2 matched
  obtain ⟨reg, found, -⟩ := register_of_busFault_none noFault
  have reads (u : State) (idle : u.regs.busy = false) :
      exec (decodeRead ofs) u = .next (accessRegister Config.params .rd reg 0 u) := by
    have row : exec (decodeRead ofs) u = .next (hostAccess Config.params .rd ofs 0 u) := exec_row .rd ofs 0 u
    rw [row, hostAccess_register Config.params 0 u noFault found, hostStep_idle _ idle]
  obtain ⟨regs, again⟩ := accessRegister_rd Config.params reg 0 s
  refine ⟨_, reads s idle, regs, ?_⟩
  rw [reads _ ((congrArg Regs.busy regs).trans idle), again]

/-! ### Repeated writes (R54) -/

/-- A write whose effect on the registers it wrote is those registers again repeats to the same state. -/
theorem exec_write_repeats {i : Instr} {s : State} {r : Regs} (effect : hostWriteEffect Config.params i s.regs = some r)
    (again : hostWriteEffect Config.params i r = some r) (idle : s.regs.busy = false) :
    ∃ t, exec i s = .next t ∧ exec i t = .next t := by
  obtain ⟨-, -, -, -, -, busy⟩ := hostWriteEffect_frame effect
  exact ⟨_, exec_write effect idle, exec_write again (busy.trans idle)⟩

/-- Clearing ABORT_PEND, or leaving it, a second time changes nothing more (R140). -/
theorem abortPendAfterWrite_idem (abortPend : Bool) (data : Word) :
    abortPendAfterWrite (abortPendAfterWrite abortPend data) data = abortPendAfterWrite abortPend data := by
  cases bit : data.getLsbD 0 <;> simp only [abortPendAfterWrite, bit] <;> rfl

theorem hostWriteEffect_wrStatus_again (p : Params) (data : Word) (r : Regs) :
    hostWriteEffect p (.wrStatus data) { r with abortPend := abortPendAfterWrite r.abortPend data } =
      some { r with abortPend := abortPendAfterWrite r.abortPend data } := by
  simp only [hostWriteEffect, abortPendAfterWrite_idem]

/-- One ROUNDS_DEC with BUSY = 0 (R139). -/
theorem exec_wrRoundsDec (data : Word) {s : State} (idle : s.regs.busy = false) :
    exec (.wrRoundsDec data) s =
      .next { respond .ok s with regs := { s.regs with rounds := satDec16 s.regs.rounds } } :=
  exec_write rfl idle

/-! ### A whole tick and ROUNDS (R59, R95, R177) -/

/-- Below the upper bound a saturating increment is undone by a decrement (R14). -/
theorem satDec16_satInc16 {v : Half} (below : v.toNat ≤ 0xFFFE) : satDec16 (satInc16 v) = v := by
  apply BitVec.eq_of_toNat_eq
  rw [satDec16_toNat, satInc16_toNat]
  omega

/-- Above 0 a saturating decrement is undone by an increment (R14). -/
theorem satInc16_satDec16 {v : Half} (pos : 1 ≤ v.toNat) : satInc16 (satDec16 v) = v := by
  apply BitVec.eq_of_toNat_eq
  have bound := v.isLt
  rw [satInc16_toNat, satDec16_toNat]
  omega

/-- A tick with an advance edge and no abort edge, and the ADC_READY of its conversion, both run: they count one round and
leave no conversion pending (R81, R83, R95). -/
theorem exec_advanceTick {raw : BitVec 3} {v : Half} {s : State} (idle : s.regs.busy = false)
    (wrap : ¬ s.regs.subtick.toNat < 255) (fits : v.toNat < 2 ^ 10) (advance : s.regs.adv.rising (raw.getLsbD 0) = true)
    (noAbort : s.regs.abort.rising (raw.getLsbD 2) = false) :
    ∃ a b, exec (.evtSubclk raw) s = .next a ∧ exec (.evtAdcReady v) a = .next b ∧
      b.regs.rounds = satInc16 s.regs.rounds ∧ b.regs.busy = false := by
  have pending : (tickPhaseA raw { quiet s with regs := { s.regs with subtick := 0 } }).regs.busy = true := by
    rw [tickPhaseA_regs]
  refine ⟨_, _, exec_tick raw wrap idle, exec_complete fits pending, ?_, rfl⟩
  refine (adcComplete_frame Config.params v _).1.trans ?_
  rw [quiet_regs, tickPhaseA_regs]
  simp only [noAbort, advance, if_true, Bool.false_eq_true, if_false]

end Sys2Proof.Machine
end

section
/-! SUPPORT. The statements about repeated and reordered host accesses settled. -/

namespace Sys2Proof.Machine

/-- Settles O53: the tick counts one round and ROUNDS_DEC takes one, and neither saturates, in either order. -/
theorem advanceAndDecrementBothCount : Obligations.AdvanceAndDecrementBothCount := by
  intro s raw v data idle wrap fits advance noAbort pos below
  constructor
  · obtain ⟨a, b, tick, ready, rounds, done⟩ := exec_advanceTick idle wrap fits advance noAbort
    refine ⟨a, b, _, tick, ready, exec_wrRoundsDec data done, ?_⟩
    exact (congrArg satDec16 rounds).trans (satDec16_satInc16 below)
  · have dec := exec_wrRoundsDec data idle
    obtain ⟨b, c, tick, ready, rounds, -⟩ := exec_advanceTick
      (s := { respond .ok s with regs := { s.regs with rounds := satDec16 s.regs.rounds } }) idle wrap fits advance noAbort
    exact ⟨_, b, c, dec, tick, ready, rounds.trans (satInc16_satDec16 pos)⟩

/-- Settles O24: a read leaves the registers its answer depends on, four writes write the same value again, and two
ROUNDS_DEC take two. -/
theorem repeatedAccesses : Obligations.RepeatedAccesses := by
  intro s data idle
  refine ⟨fun i isRead => ?_, ?_, ?_⟩
  · -- The thirteen reads, in the order of the statement, are the rows of the exact offsets.
    obtain ⟨ofs, matched, rfl⟩ : ∃ ofs ∈ exactReadOffsets, decodeRead ofs = i := List.mem_map.1 isRead
    exact exec_decodeRead_repeats matched idle
  · simp only [List.forall_mem_cons, List.not_mem_nil, false_implies, implies_true, and_true]
    exact ⟨exec_write_repeats rfl rfl idle, exec_write_repeats rfl rfl idle, exec_write_repeats rfl rfl idle,
      exec_write_repeats rfl (hostWriteEffect_wrStatus_again Config.params data s.regs) idle⟩
  · refine ⟨_, _, exec_wrRoundsDec data idle, exec_wrRoundsDec data idle, ?_⟩
    change (satDec16 (satDec16 s.regs.rounds)).toNat = s.regs.rounds.toNat - 2
    rw [satDec16_toNat, satDec16_toNat, Nat.sub_sub]

end Sys2Proof.Machine
end

section
/-! SUPPORT. What the decoder refuses, by the fields of the control word and by the data of an event, and the control word of a class from its two bytes. -/

namespace Sys2Proof

/-! ### Words the control word refuses (R72, R73) -/

theorem controlRefusal_illClass {ctrl : Half} (cls : ctrl.toNat / 2 ^ 14 = 3) : controlRefusal ctrl = some .illClass := by
  have reserved : clsField ctrl = 0b11 := BitVec.eq_of_toNat_eq ((clsField_toNat ctrl).trans cls)
  rw [controlRefusal, if_pos reserved]

theorem controlRefusal_rsvCtrl {ctrl : Half} (cls : ctrl.toNat / 2 ^ 14 ≠ 3) (rsv : ctrl.toNat / 2 ^ 8 % 2 ^ 6 ≠ 0) :
    controlRefusal ctrl = some .rsvCtrl := by
  have legal : clsField ctrl ≠ 0b11 := fun reserved => cls ((clsField_toNat ctrl).symm.trans (congrArg BitVec.toNat reserved))
  have dirty : rsvField ctrl ≠ 0 := fun zero => rsv ((rsvField_toNat ctrl).symm.trans (congrArg BitVec.toNat zero))
  rw [controlRefusal, if_neg legal, if_pos dirty]

theorem controlRefusal_unknownEvent {evc : Byte} (unknown : ¬ KnownEvent evc) :
    controlRefusal ((0x80 : Byte) ++ evc) = some .unknownEvent := by
  obtain ⟨notSubclk, notReady, notReset⟩ := not_or.mp unknown |>.imp_right not_or.mp
  rw [controlRefusal, clsField_append, rsvField_append, ofsField_append, if_neg (by decide), if_neg (by decide),
    if_pos ⟨by decide, notSubclk, notReady, notReset⟩]

/-- A control word is its high byte and its OFS or EVC field (R63). -/
theorem control_eq_append {ctrl : Half} {hi : Byte} (high : ctrl.toNat / 2 ^ 8 = hi.toNat) : ctrl = hi ++ ofsField ctrl := by
  have highByte : ctrl.extractLsb' 8 8 = hi := by
    apply BitVec.eq_of_toNat_eq
    rw [BitVec.extractLsb'_toNat, Nat.shiftRight_eq_div_pow, high, Nat.mod_eq_of_lt hi.isLt]
  subst highByte
  exact (halfOfBytes_bytes ctrl).symm

/-! ### Event words the data refuses (R69, R73) -/

theorem decodeEvent_subclk_wide (p : Params) {data : Word} (wide : 2 ^ 3 ≤ data.toNat) : decodeEvent p 0x01 data = none :=
  if_neg (Nat.not_lt.mpr wide)

theorem decodeEvent_reset_nonzero (p : Params) {data : Word} (nonzero : data ≠ 0) : decodeEvent p 0x03 data = none :=
  if_neg nonzero

/-- An event whose data has a bit outside its operands is refused EVT_DATA_RSV. -/
theorem decode_event_dataRsv {evc : Byte} {data : Word} (known : KnownEvent evc)
    (outside : decodeEvent Config.params evc data = none) (rest : List Byte) :
    decode (bytesOfHalf ((0x80 : Byte) ++ evc) ++ bytesOfWord data ++ rest) = .refused .evtDataRsv :=
  (decodeWith_eventRow Config.params known data rest).trans (by rw [outside, Option.elim_none])

end Sys2Proof
end

section
/-! SUPPORT. A host access while a conversion is pending, the end of the conversion, and the run of one whole tick from its encoded expansion. -/

namespace Sys2Proof.Machine

/-! ### The host while BUSY = 1 (R73, R85) -/

/-- Every host stimulus is refused while a conversion is pending: a read and a write by `hostStep`, a bus error by its own
check. -/
theorem exec_host_busy {i : Instr} {s : State} (host : agentOf i = some .host) (busy : s.regs.busy = true) :
    exec i s = .next (refuse .hostWhileBusy s) := by
  cases i with
  | rdBtnState | rdBtnHist | rdRounds | rdStatus | rdTimeMs | rdTickCount | rdSubtick | rdAdcLast | rdTier | rdScrollMs
  | rdJumpMs | rdPwmCmp | rdPwmCnt | wrRounds | wrRoundsDec | wrStatus | wrTier | wrPwmCmp =>
    exact congrArg Host.Outcome.next (if_pos busy)
  | rdBuserr | wrBuserr => exact if_pos busy
  | evtSubclk | evtAdcReady | evtReset => cases host

theorem host_enabled_iff (s : State) : Agent.host.enabled s = true ↔ s.regs.busy = false ∧ s.clean = true := by
  simp [Agent.enabled, and_comm]

/-- A host access that is offered while a conversion is pending waits (R85). -/
theorem offer_host_busy {i : Instr} {s : State} (host : agentOf i = some .host) (busy : s.regs.busy = true) :
    offer i s = none := by
  simp [offer, host, Agent.enabled, busy]

/-! ### The end of a conversion (R83, R102 to R106) -/

theorem classify_eq_zero {p : Params} {v : Nat} (le1 : v ≤ p.t1) : classify p v = 0 := if_pos le1

theorem classify_eq_one {p : Params} {v : Nat} (gt1 : p.t1 < v) (le2 : v ≤ p.t2) : classify p v = 1 := by
  rw [classify, if_neg gt1.not_ge, if_pos le2]

theorem classify_eq_two {p : Params} {v : Nat} (gt1 : p.t1 < v) (gt2 : p.t2 < v) (le3 : v ≤ p.t3) : classify p v = 2 := by
  rw [classify, if_neg gt1.not_ge, if_neg gt2.not_ge, if_pos le3]

theorem classify_eq_three {p : Params} {v : Nat} (gt1 : p.t1 < v) (gt2 : p.t2 < v) (gt3 : p.t3 < v) : classify p v = 3 := by
  rw [classify, if_neg gt1.not_ge, if_neg gt2.not_ge, if_neg gt3.not_ge]

/-- What ADC_READY leaves when it ends the pending conversion (R83). -/
def completed (p : Params) (v : Half) (s : State) : State :=
  { adcComplete p v (quiet s) with regs := { (adcComplete p v (quiet s)).regs with busy := false } }

theorem exec_adcReady {v : Half} {s : State} (fits : v.toNat < 2 ^ 10) (pending : s.regs.busy = true) :
    exec (.evtAdcReady v) s = .next (completed Config.params v s) := exec_complete fits pending

theorem completed_records (p : Params) (v : Half) (s : State) :
    (completed p v s).faultRecord = s.faultRecord ∧ (completed p v s).refusedMark = s.refusedMark ∧
    (completed p v s).stream = s.stream := by
  obtain ⟨fault, mark, -, stream⟩ := adcComplete_records p v (quiet s)
  exact ⟨fault, mark, stream⟩

theorem completed_clean {s : State} (p : Params) (v : Half) (clean : s.clean = true) : (completed p v s).clean = true := by
  obtain ⟨noFault, noMark⟩ := (clean_iff s).1 clean
  obtain ⟨fault, mark, -⟩ := completed_records p v s
  exact (clean_iff _).2 ⟨fault.trans noFault, mark.trans noMark⟩

theorem completed_regs (p : Params) (v : Half) (s : State) :
    (completed p v s).regs =
      { (if v = s.regs.adcLast then s.regs else loadTier p (classify p v.toNat) s.regs) with adcLast := v, busy := false } := by
  rw [completed, adcComplete_regs]
  rfl

theorem completed_history (p : Params) (v : Half) (s : State) :
    (completed p v s).history =
      s.history ++ if v = s.regs.adcLast then [] else [.relabel (classify p v.toNat) s.regs.tickCount] :=
  adcComplete_history p v (quiet s)

/-- The end of a conversion keeps the sample and leaves the channels and the counters (R82, R83). -/
theorem completed_frame (p : Params) (v : Half) (s : State) :
    (completed p v s).regs.adcLast = v ∧ (∀ c, (completed p v s).regs.chan c = s.regs.chan c) ∧
    (completed p v s).regs.subtick = s.regs.subtick ∧ (completed p v s).regs.tickCount = s.regs.tickCount ∧
    (completed p v s).regs.pwmCnt = s.regs.pwmCnt := by
  rw [completed_regs]
  split <;> exact ⟨rfl, fun c => by cases c <;> rfl, rfl, rfl, rfl⟩

/-! ### The run of one tick (R76, R80 to R83) -/

/-- A run takes the encoded stimulus at the head of the stream, where no record is set. -/
theorem run_encoded {i : Instr} {is : List Instr} {rest : List Byte} {s t : State} {k : Nat} (clean : s.clean = true)
    (wf : i.wellFormed = true) (spelled : s.stream = encodeAll (i :: is) ++ rest)
    (ran : exec i { s with stream := encodeAll is ++ rest } = .next t) : core.run (k + 1) s = core.run k t := by
  have head : decode s.stream = .instr i (encodeAll is ++ rest) := by
    rw [spelled, encodeAll, List.flatMap_cons, List.append_assoc]
    exact decodeWith_encode (p := Config.params) (by decide) wf _
  exact run_next (M := core) ((step_instr clean head).trans ran)

/-- The state in which phase A begins: nothing on the ports and SUBTICK = 0 (R80). -/
def tickEntry (s : State) : State := { quiet s with regs := { s.regs with subtick := 0 } }

theorem exec_tickEntry (raw : BitVec 3) {s : State} (wrap : ¬ s.regs.subtick.toNat < 255) (idle : s.regs.busy = false) :
    exec (.evtSubclk raw) s = .next (tickPhaseA raw (tickEntry s)) := exec_tick raw wrap idle

/-- After phase A the ADC_READY can run: no record is set, its conversion is pending, and the stream is as before. -/
theorem tickPhaseA_tickEntry (raw : BitVec 3) {s : State} (clean : s.clean = true) :
    (tickPhaseA raw (tickEntry s)).clean = true ∧ (tickPhaseA raw (tickEntry s)).regs.busy = true ∧
    (tickPhaseA raw (tickEntry s)).stream = s.stream := by
  obtain ⟨noFault, noMark⟩ := (clean_iff s).1 clean
  obtain ⟨fault, mark, -, stream⟩ := tickPhaseA_records raw (tickEntry s)
  exact ⟨(clean_iff _).2 ⟨fault.trans noFault, mark.trans noMark⟩, by rw [tickPhaseA_regs], stream⟩

/-- One tick has run from the registers `before` and its conversion has ended, with `rest` of the stream to come (R82). -/
structure TickRan (before : Regs) (raw : BitVec 3) (v : Half) (rest : List Byte) (t : State) : Prop where
  clean : t.clean = true
  stream : t.stream = rest
  idle : t.regs.busy = false
  subtick : t.regs.subtick = 0
  tickCount : t.regs.tickCount = before.tickCount + 1
  pwmCnt : t.regs.pwmCnt = before.pwmCnt + 1
  adcLast : t.regs.adcLast = v
  sampled : ∀ c, t.regs.chan c = (before.chan c).sample (raw.getLsbD c.number)

/-- Phase A, and the end of its conversion with `rest` to come, are one tick. -/
theorem tickRan_completed (p : Params) (raw : BitVec 3) (v : Half) (rest : List Byte) {s : State} (clean : s.clean = true) :
    TickRan s.regs raw v rest (completed p v { tickPhaseA raw (tickEntry s) with stream := rest }) := by
  obtain ⟨started, -⟩ := tickPhaseA_tickEntry raw clean
  obtain ⟨-, -, stream⟩ := completed_records p v { tickPhaseA raw (tickEntry s) with stream := rest }
  obtain ⟨sample, chans, subtick, ticks, pwm⟩ := completed_frame p v { tickPhaseA raw (tickEntry s) with stream := rest }
  have regs := tickPhaseA_regs raw (tickEntry s)
  exact {
    clean := completed_clean p v started
    stream := stream
    idle := rfl
    subtick := by rw [subtick, regs]; rfl
    tickCount := by rw [ticks, regs]; rfl
    pwmCnt := by rw [pwm, regs]; rfl
    adcLast := sample
    sampled := fun c => (chans c).trans (tickPhaseA_chan raw (tickEntry s) c) }

/-- From `n` SUBCLKs before the wrap with no conversion pending, `n + 1` SUBCLKs and the ADC_READY run one tick. -/
theorem run_tick (raw : BitVec 3) {v : Half} (fits : v.toNat < 2 ^ 10) (rest : List Byte) (n : Nat) (s : State)
    (clean : s.clean = true) (idle : s.regs.busy = false) (left : s.regs.subtick.toNat + n = 255)
    (spelled : s.stream = encodeAll (List.replicate (n + 1) (.evtSubclk raw) ++ [.evtAdcReady v]) ++ rest) :
    ∃ t, core.run (n + 2) s = .next t ∧ TickRan s.regs raw v rest t := by
  induction n generalizing s with
  | zero =>
    have wrap : ¬ s.regs.subtick.toNat < 255 := by omega
    have begun := run_encoded (k := 1) clean rfl spelled (exec_tickEntry raw wrap idle)
    obtain ⟨started, pending, stream⟩ :=
      tickPhaseA_tickEntry raw (s := { s with stream := encodeAll [.evtAdcReady v] ++ rest }) clean
    have ended := run_encoded (i := .evtAdcReady v) (k := 0) started (decide_eq_true fits) stream (exec_adcReady fits pending)
    exact ⟨_, begun.trans ended,
      tickRan_completed Config.params raw v rest (s := { s with stream := encodeAll [.evtAdcReady v] ++ rest }) clean⟩
  | succ n ih =>
    have below : s.regs.subtick.toNat < 255 := by omega
    have counted : (s.regs.subtick + 1).toNat + n = 255 := by
      rw [← ofNat_toNat_add_one, BitVec.toNat_ofNat]
      omega
    obtain ⟨t, ran, tick⟩ := ih
      { quiet s with
        regs := { s.regs with subtick := s.regs.subtick + 1 }
        stream := encodeAll (List.replicate (n + 1) (.evtSubclk raw) ++ [.evtAdcReady v]) ++ rest }
      clean idle counted rfl
    -- The SUBCLK counted SUBTICK alone, of which `TickRan` says only the end.
    exact ⟨t, (run_encoded clean rfl spelled (exec_count raw below)).trans ran, { tick with }⟩

end Sys2Proof.Machine
end

section
/-! SUPPORT. The statements about the encoding settled, and those about the host and the ADC that its stimuli reach. -/

namespace Sys2Proof.Machine

/-- Settles O3: the round trip for every choice of the parameters, at the defaults. -/
theorem decodeOfEncode : Obligations.DecodeOfEncode :=
  fun _ rest wf => decodeWith_encode (p := Config.params) (by decide) wf rest

/-- Settles O4: the decoder's inversion for every choice of the parameters, at the defaults. -/
theorem encodeOfDecode : Obligations.EncodeOfDecode :=
  fun _ _ _ decoded => encode_of_decodeWith (p := Config.params) (by decide) decoded

/-- Settles O5: the first three classes by the control word alone, the next three by the event's data, and the two bus classes
by their rows. -/
theorem reservedEncodingsRefused : Obligations.ReservedEncodingsRefused := by
  intro c d rest
  refine ⟨fun cls => ?_, fun cls rsv => ?_, fun high not1 not2 not3 => ?_, fun ctrl wide => ?_, fun ctrl wide => ?_,
    fun ctrl nonzero => ?_, fun high => ?_, fun high => ?_⟩
  · rw [List.append_assoc, decode_refused _ _ _ (controlRefusal_illClass cls)]
  · rw [List.append_assoc, decode_refused _ _ _ (controlRefusal_rsvCtrl cls rsv)]
  · have unknown : ¬ KnownEvent (ofsField c) := by
      rintro (evc | evc | evc) <;> have code := (ofsField_toNat c).symm.trans (congrArg BitVec.toNat evc)
      · exact not1 code
      · exact not2 code
      · exact not3 code
    rw [List.append_assoc, control_eq_append (hi := 0x80) high,
      decode_refused _ _ _ (controlRefusal_unknownEvent unknown)]
  · subst ctrl
    exact decode_event_dataRsv (.inl rfl) (decodeEvent_subclk_wide _ wide) rest
  · subst ctrl
    exact decode_event_dataRsv (.inr (.inl rfl)) (decodeEvent_adcReady_wide wide) rest
  · subst ctrl
    exact decode_event_dataRsv (.inr (.inr rfl)) (decodeEvent_reset_nonzero _ nonzero) rest
  · rw [control_eq_append (hi := 0x00) high, List.append_assoc, decode_readRow]
    exact ⟨_, (decodeRead_spelling Config.params _).1, rfl⟩
  · rw [control_eq_append (hi := 0x40) high, decode_writeRow]
    exact ⟨_, (decodeWrite_spelling Config.params _ d).1, rfl⟩

/-- Settles O11: the host's stimuli are refused while BUSY = 1, and the end of the conversion leaves BUSY = 0 and no record. -/
theorem hostHeldWhileBusy : Obligations.HostHeldWhileBusy := by
  intro s
  refine ⟨host_enabled_iff s, fun i host busy => ⟨busy, offer_host_busy host busy, exec_host_busy host busy, ?_⟩⟩
  intro v t clean fits ran
  cases (exec_adcReady fits busy).symm.trans ran
  exact offer_host host (completed_clean Config.params v clean) rfl

/-- Settles O33: the conversion's end with an unchanged and with a changed sample, in each band, and the refusal with no
conversion pending. -/
theorem adcReadyCompletesTick : Obligations.AdcReadyCompletesTick := by
  intro s v fits
  obtain ⟨fault, mark, stream⟩ := completed_records Config.params v s
  refine ⟨fun pending same => ?_, fun pending changed => ?_, exec_notPending fits⟩
  · refine ⟨_, exec_adcReady fits pending, ?_, ?_, fault, mark, stream⟩
    · rw [completed_regs, if_pos same, same]
    · rw [completed_history, if_pos same, List.append_nil]
  · have regs := completed_regs Config.params v s
    rw [if_neg changed] at regs
    refine ⟨_, exec_adcReady fits pending, fun le1 => ?_, fun gt1 le2 => ?_, fun gt2 le3 => ?_, fun gt3 => ?_, ?_, fault, mark,
      stream⟩
    · rw [regs, classify_eq_zero le1]; rfl
    · rw [regs, classify_eq_one gt1 le2]; rfl
    · rw [regs, classify_eq_two (Nat.lt_trans (by decide) gt2) gt2 le3]; rfl
    · rw [regs, classify_eq_three (Nat.lt_trans (by decide) gt3) (Nat.lt_trans (by decide) gt3) gt3]; rfl
    · rw [completed_history, if_neg changed, regs]; rfl

/-- Settles O55: the expansion of `tick` is the SUBCLKs left to the wrap and the ADC_READY. -/
theorem tickPseudoRunsOneTick : Obligations.TickPseudoRunsOneTick := by
  intro s raw v is rest clean below fits expanded spelled
  cases idle : s.regs.busy with
  | true => simp [Pseudo.expand, idle] at expanded
  | false =>
    obtain ⟨n, left⟩ : ∃ n, 256 - s.regs.subtick.toNat = n + 1 := Nat.exists_eq_add_one.2 (Nat.sub_pos_of_lt below)
    obtain rfl : List.replicate (n + 1) (.evtSubclk raw) ++ [.evtAdcReady v] = is := by
      simpa [Pseudo.expand, idle, tickStimuli, left] using expanded
    obtain ⟨t, ran, tick⟩ := run_tick raw fits rest n s clean idle (by omega) spelled
    refine ⟨t, ?_, tick.clean, tick.stream, tick.idle, tick.subtick, tick.tickCount, tick.pwmCnt, tick.adcLast,
      tick.sampled .adv, tick.sampled .jump, tick.sampled .abort⟩
    rw [List.length_append, List.length_replicate]
    exact ran

/-- Settles O1: no record is set, so the step is the decoded stimulus. -/
theorem stepRunsDecodedStimulus : Obligations.StepRunsDecodedStimulus :=
  fun _ _ _ clean head => step_instr clean head

/-- Settles O2: the ten words are closed, and the decoder computes on them. -/
theorem specWordsDecode : Obligations.SpecWordsDecode := by
  unfold Obligations.SpecWordsDecode
  decide

/-- Settles O7: the five texts are closed, and the reader computes on them. -/
theorem workedTextAssembles : Obligations.WorkedTextAssembles := by
  unfold Obligations.WorkedTextAssembles
  decide

end Sys2Proof.Machine
end

section
/-! SUPPORT. States with a record have no step, and what the stimuli do to the position in time that SUBCLK counts. -/

namespace Sys2Proof.Machine

/-! ### States with a record (R87) -/

/-- A faulted state has no step, with any decoder and dispatch. -/
theorem stepBy_recorded (dec : List Byte → Decoded) (run : Instr → State → Host.Outcome State Fault Refusal) {s : State}
    {r : FaultRecord} (faulted : s.faultRecord = some r) : stepBy dec run s = .fault (.recorded r) := by
  simp [stepBy, faulted]

theorem Agent.enabled_of_recorded (a : Agent) {s : State} (recorded : s.clean = false) : a.enabled s = false := by
  cases a <;> simp [Agent.enabled, recorded]

theorem quiescent_of_recorded {s : State} (recorded : s.clean = false) : s.quiescent = true := by
  simp [State.quiescent, Agent.enabled_of_recorded _ recorded]

/-- While a conversion is pending ADC has a step. -/
theorem quiescent_of_pending {s : State} (clean : s.clean = true) (pending : s.regs.busy = true) :
    s.quiescent = false := by
  simp [State.quiescent, Agent.enabled, clean, pending]

theorem offer_of_recorded (i : Instr) {s : State} (recorded : s.clean = false) : offer i s = none := by
  cases issued : agentOf i with
  | none => simp [offer, issued, recorded]
  | some a => simp [offer, issued, Agent.enabled_of_recorded a recorded]

theorem clean_of_step {s t : State} (stepped : step s = .next t) : s.clean = true := by
  obtain ⟨noFault, noMark, -⟩ := step_result stepped
  exact (clean_iff s).2 ⟨noFault, noMark⟩

/-! ### Counting SUBCLKs (R80, R110, R111) -/

/-- `ofNat_toNat_add_one` at every width. -/
theorem ofNat_toNat_succ {w : Nat} (v : BitVec w) : BitVec.ofNat w (v.toNat + 1) = v + 1 := by
  rw [BitVec.ofNat_add, BitVec.ofNat_toNat, BitVec.setWidth_eq]
  rfl

/-- The position in time at the default TOP: TICK_COUNT · TOP + SUBTICK (R111). -/
def Regs.position (r : Regs) : Nat := r.tickCount.toNat * 256 + r.subtick.toNat

theorem Regs.position_count {r : Regs} (below : r.subtick.toNat < 255) :
    { r with subtick := r.subtick + 1 : Regs }.position = (r.position + 1) % (256 * 2 ^ 32) := by
  have ticks := r.tickCount.isLt
  have counted : (r.subtick + 1).toNat = r.subtick.toNat + 1 := by
    rw [← ofNat_toNat_add_one, BitVec.toNat_ofNat]
    omega
  simp only [Regs.position, counted]
  omega

/-- Phase A begins on the registers of the wrapping SUBCLK with SUBTICK = 0 (R80). -/
@[simp] theorem tickEntry_regs (s : State) : (tickEntry s).regs = { s.regs with subtick := 0 } := rfl

@[simp] theorem tickEntry_history (s : State) : (tickEntry s).history = s.history := rfl

/-- The tick at the last count moves the position on by one: SUBTICK wraps and TICK_COUNT goes up. -/
theorem tickPhaseA_position (raw : BitVec 3) {s : State} (last : s.regs.subtick.toNat = 255) :
    (tickPhaseA raw (tickEntry s)).regs.position = (s.regs.position + 1) % (256 * 2 ^ 32) := by
  simp only [Regs.position, tickPhaseA_regs, tickEntry_regs, last, BitVec.ofNat_eq_ofNat, BitVec.toNat_add, BitVec.toNat_ofNat]
  omega

/-- A SUBCLK that does not overrun moves the position on by one. -/
theorem exec_subclk_position {raw : BitVec 3} {s t : State} (ran : exec (.evtSubclk raw) s = .next t)
    (noOverrun : t.overrun = false) (inRange : s.regs.subtick.toNat < 256) :
    t.regs.position = (s.regs.position + 1) % (256 * 2 ^ 32) := by
  by_cases below : s.regs.subtick.toNat < 255
  · cases (exec_count raw below).symm.trans ran
    exact Regs.position_count below
  · cases busy : s.regs.busy with
    | true =>
      cases (exec_overrun raw below busy).symm.trans ran
      cases (overrun_raiseOverrun _ s).symm.trans noOverrun
    | false =>
      cases (exec_tickEntry raw below busy).symm.trans ran
      exact tickPhaseA_position raw (by omega)

/-- A stimulus that is neither SUBCLK nor RESET leaves TICK_COUNT and SUBTICK. -/
theorem ExecResult.timebase_kept {p : Params} {i : Instr} {s t : State} (result : ExecResult p i s t)
    (noSubclk : ∀ raw, i ≠ .evtSubclk raw) (noReset : i ≠ .evtReset) :
    t.regs.tickCount = s.regs.tickCount ∧ t.regs.subtick = s.regs.subtick := by
  cases result with
  | refused | read | busFault => exact ⟨rfl, rfl⟩
  | write r effect =>
    obtain ⟨-, ticks, subtick, -⟩ := hostWriteEffect_frame effect
    exact ⟨ticks, subtick⟩
  | count raw subclk | overrun raw subclk | tick raw subclk => exact absurd subclk (noSubclk raw)
  | complete v =>
    obtain ⟨-, -, subtick, ticks, -⟩ := completed_frame p v s
    exact ⟨ticks, subtick⟩
  | reset isReset => exact absurd isReset noReset

end Sys2Proof.Machine
end

section
/-! SUPPORT. Infinite runs in which TIMER is weakly fair: the next SUBCLK, the next tick, and what the ticks sample. -/

namespace Sys2Proof.Machine

/-- An infinite run with TIMER weakly fair and no RESET from the `n`-th stimulus on (R88). -/
structure FairRun (p : Params) (stim : Nat → Instr) (states : Nat → State) (n : Nat) : Prop where
  valid : p.Valid
  isRun : ∀ m, IsRun p stim states m
  fair : TimerFair stim
  noReset : ∀ k, n ≤ k → stim k ≠ .evtReset

variable {p : Params} {stim : Nat → Instr} {states : Nat → State} {n k : Nat}

theorem FairRun.later (run : FairRun p stim states n) (le : n ≤ k) : FairRun p stim states k :=
  { run with noReset := fun j hj => run.noReset j (le.trans hj) }

/-- The `k`-th stimulus of a run is a tick with these levels, and phase A has run for it. -/
structure TickAt (p : Params) (stim : Nat → Instr) (states : Nat → State) (k : Nat) (raw : BitVec 3) : Prop where
  subclk : stim k = .evtSubclk raw
  isTick : isTick p (stim k) (states k) = true
  next : states (k + 1) = tickPhaseA raw (tickEntry (states k))

theorem FairRun.step (run : FairRun p stim states n) :
    (∃ raw, TickAt p stim states n raw) ∨ OffTick p (stim n) (states n) (states (n + 1)) := by
  obtain ⟨-, ran, clean⟩ := run.isRun (n + 1) n n.lt_succ_self
  obtain ⟨raw, subclk, tick, next⟩ | off := run_step run.valid ran clean (run.noReset n le_rfl)
  · exact .inl ⟨raw, subclk, tick, next⟩
  · exact .inr off

/-- Up to the next SUBCLK the channels and SUBTICK stay. -/
theorem FairRun.subclk_comes (run : FairRun p stim states n) :
    ∃ k, n ≤ k ∧ agentOf (stim k) = some .timer ∧ (states k).regs.subtick = (states n).regs.subtick ∧
      ∀ c, (states k).regs.chan c = (states n).regs.chan c := by
  obtain ⟨m, le, timer⟩ := run.fair n
  obtain ⟨d, rfl⟩ := Nat.exists_eq_add_of_le le
  clear le
  induction d generalizing n with
  | zero => exact ⟨n, le_rfl, timer, rfl, fun _ => rfl⟩
  | succ d ih =>
    by_cases now : agentOf (stim n) = some .timer
    · exact ⟨n, le_rfl, now, rfl, fun _ => rfl⟩
    obtain ⟨raw, tick⟩ | ⟨-, chans, -, ⟨now', -⟩ | ⟨-, subtick⟩⟩ := run.step
    · exact absurd (congrArg agentOf tick.subclk) now
    · exact absurd now' now
    · obtain ⟨k, le, timer, subtick', chans'⟩ := ih (run.later n.le_succ) (by rwa [Nat.succ_add_eq_add_succ])
      exact ⟨k, (Nat.le_succ n).trans le, timer, subtick'.trans subtick, fun c => (chans' c).trans (chans c)⟩

/-- A tick comes, and the channels stay up to it: each SUBCLK before it leaves one less to the wrap (R82). -/
theorem FairRun.tick_comes (run : FairRun p stim states n) :
    ∃ k raw, n ≤ k ∧ TickAt p stim states k raw ∧ ∀ c, (states k).regs.chan c = (states n).regs.chan c := by
  induction left : p.top - (states n).regs.subtick.toNat using Nat.strong_induction_on generalizing n with
  | _ left ih =>
    obtain ⟨k, le, timer, subtick, chans⟩ := run.subclk_comes
    obtain ⟨raw, tick⟩ | ⟨-, chans', -, ⟨-, below, counted⟩ | ⟨notTimer, -⟩⟩ := (run.later le).step
    · exact ⟨k, raw, le, tick, chans⟩
    · rw [subtick] at below counted
      have past : n ≤ k + 1 := le.trans k.le_succ
      obtain ⟨m, raw, le', tick, chans''⟩ := ih _ (by omega) (run.later past) rfl
      exact ⟨m, raw, past.trans le', tick, fun c => (chans'' c).trans ((chans' c).trans (chans c))⟩
    · exact absurd timer notTimer

theorem TickAt.tickCount {raw : BitVec 3} (tick : TickAt p stim states k raw) :
    (states (k + 1)).regs.tickCount = (states k).regs.tickCount + 1 := by
  rw [tick.next, tickPhaseA_regs]
  rfl

/-- A tick samples each channel with its own pin. -/
theorem TickAt.sampled {raw : BitVec 3} (tick : TickAt p stim states k raw) (c : Chan) :
    (states (k + 1)).regs.chan c = ((states k).regs.chan c).sample (raw.getLsbD c.number) := by
  rw [tick.next]
  exact tickPhaseA_chan raw (tickEntry (states k)) c

/-- The exit strobe of a tick is the edge of the abort channel (R96). -/
theorem TickAt.exitStb {raw : BitVec 3} (tick : TickAt p stim states k raw) :
    (states (k + 1)).exitStb = (states k).regs.abort.rising (raw.getLsbD 2) := by
  rw [tick.next, State.exitStb, tickPhaseA_out raw rfl]
  rfl

/-- From the `n`-th stimulus on the pin of channel `c` is at the level `r` at every SUBCLK. -/
def PinHeld (stim : Nat → Instr) (c : Chan) (r : Bool) (n : Nat) : Prop :=
  ∀ k raw, n ≤ k → stim k = .evtSubclk raw → raw.getLsbD c.number = r

theorem PinHeld.later {c : Chan} {r : Bool} (held : PinHeld stim c r n) (le : n ≤ k) : PinHeld stim c r k :=
  fun j raw hj => held j raw (le.trans hj)

/-- With its pin held a channel comes to any number of samples of that level. -/
theorem FairRun.samples_come (run : FairRun p stim states n) {c : Chan} {r : Bool} (held : PinHeld stim c r n) (m : Nat) :
    ∃ k, n ≤ k ∧ (states k).regs.chan c = ((states n).regs.chan c).samples (List.replicate m r) := by
  induction m generalizing n with
  | zero => exact ⟨n, le_rfl, rfl⟩
  | succ m ih =>
    obtain ⟨k, raw, le, tick, chans⟩ := run.tick_comes
    have past : n ≤ k + 1 := le.trans k.le_succ
    obtain ⟨j, le', samples⟩ := ih (run.later past) (held.later past)
    refine ⟨j, past.trans le', samples.trans ?_⟩
    rw [tick.sampled, chans, held k raw le tick.subclk]
    rfl

theorem Channel.samples_hist (c : Channel) (rs : List Bool) : (c.samples rs).hist = rs.foldl shiftHistory c.hist := by
  induction rs generalizing c with
  | nil => rfl
  | cons r rs ih => exact ih (c.sample r)

/-- Five shifts of one level fill the history with it (R92). -/
theorem shiftHistory_five (hist : BitVec 5) (r : Bool) :
    (List.replicate 5 r).foldl shiftHistory hist = if r then 0b11111 else 0b00000 := by
  revert hist r
  decide

/-- Five samples of one level come to that debounced state, by the last one's commit (R93). -/
theorem samples_five_db (c : Channel) (r : Bool) : (c.samples (List.replicate 5 r)).db = r := by
  change commitDebounced (c.samples (List.replicate 5 r)).hist (c.samples (List.replicate 4 r)).db = r
  rw [Channel.samples_hist, shiftHistory_five]
  cases r <;> rfl

theorem Channel.rising_eq (c : Channel) (r : Bool) : c.rising r = ((c.sample r).db && !c.prev) := rfl

/-- A released ABORT channel that some number of pressed samples would bring to pressed comes to its edge (R94, R96). -/
theorem FairRun.exitStb_comes (run : FairRun p stim states n) (held : PinHeld stim .abort true n)
    (released : (states n).regs.abort.db = false) (settled : (states n).regs.abort.prev = false) {m : Nat}
    (pressed : ((states n).regs.abort.samples (List.replicate m true)).db = true) :
    ∃ k, n ≤ k ∧ (states (k + 1)).exitStb = true := by
  induction m generalizing n with
  | zero => cases released.symm.trans pressed
  | succ m ih =>
    obtain ⟨k, raw, le, tick, chans⟩ := run.tick_comes
    have past : n ≤ k + 1 := le.trans k.le_succ
    have closed : raw.getLsbD 2 = true := held k raw le tick.subclk
    have same : (states k).regs.abort = (states n).regs.abort := chans .abort
    have sampled : (states (k + 1)).regs.abort = (states n).regs.abort.sample true := by
      rw [← same, ← closed]
      exact tick.sampled .abort
    cases db : ((states n).regs.abort.sample true).db with
    | true =>
      refine ⟨k, le, ?_⟩
      rw [tick.exitStb, same, closed, Channel.rising_eq, db, settled]
      rfl
    | false =>
      obtain ⟨j, le', strobe⟩ := ih (run.later past) (held.later past) (sampled ▸ db) (sampled ▸ db) (sampled ▸ pressed)
      exact ⟨j, past.trans le', strobe⟩

end Sys2Proof.Machine
end

section
/-! SUPPORT. The statements about the sequencer settled: recorded states, SUBCLK and its overrun, the tick, the position in time, and fair runs. -/

namespace Sys2Proof.Machine

/-- Settles O60: a tick comes; five of them with a held pin fill a channel's history; and the first that brings a released
ABORT channel to pressed is its edge. -/
theorem fairRunsKeepTicking : Obligations.FairRunsKeepTicking := by
  intro p stim states n valid isRun fair noReset
  have run : FairRun p stim states n := ⟨valid, isRun, fair, noReset⟩
  refine ⟨?_, fun c r held => ?_, fun released settled held => ?_⟩
  · obtain ⟨k, raw, le, tick, -⟩ := run.tick_comes
    exact ⟨k, le, tick.isTick, tick.tickCount⟩
  · obtain ⟨k, le, samples⟩ := run.samples_come held 5
    exact ⟨k, le, (congrArg Channel.db samples).trans (samples_five_db _ r)⟩
  · exact run.exitStb_comes held released settled (samples_five_db _ true)

/-- Settles O27, by the three cases of SUBCLK. -/
theorem subclkCountsFaultsOrTicks : Obligations.SubclkCountsFaultsOrTicks := by
  intro s raw
  refine ⟨fun below => ?_, fun wrap pending => ?_, fun wrap idle => ?_⟩
  · exact ⟨_, exec_count raw below, rfl, rfl, rfl, rfl, rfl⟩
  · exact ⟨_, _, exec_overrun raw wrap pending, rfl, rfl, rfl, rfl⟩
  · obtain ⟨fault, mark, -, stream⟩ := tickPhaseA_records raw (tickEntry s)
    refine ⟨_, exec_tickEntry raw wrap idle, ?_, ?_, fault, mark, stream⟩
    · rw [tickPhaseA_regs, tickPhaseA_regs]; rfl
    · rw [tickPhaseA_history, tickPhaseA_history]; rfl

/-- Settles O28: the record is that of the SUBCLK, and the next step stops on it. -/
theorem overrunRecord : Obligations.OverrunRecord := by
  intro s raw wrap pending
  exact ⟨_, _, exec_overrun raw wrap pending, rfl, rfl, rfl, congrArg some (BitVec.ofNat_toNat 32 raw).symm, rfl,
    stepBy_recorded decode exec rfl⟩

/-- Settles O30: the registers, the events and the records of phase A, each by its own law. -/
theorem tickPhaseAWhole : Obligations.TickPhaseAWhole := by
  intro s raw
  obtain ⟨fault, mark, -⟩ := tickPhaseA_records raw s
  refine ⟨?_, tickPhaseA_history raw s, fault, mark⟩
  rw [tickPhaseA_regs, ofNat_toNat_succ, ofNat_toNat_succ]
  rfl

/-- Settles O31: without an abort edge phase A counts the advance edge alone. -/
theorem advanceEdgeCountsRound : Obligations.AdvanceEdgeCountsRound := by
  intro s raw wrap idle noAbort
  refine ⟨_, exec_tickEntry raw wrap idle, fun advance => ?_, fun noAdvance => ?_⟩ <;>
    rw [tickPhaseA_regs, tickPhaseA_history]
  · simp only [tickEntry_regs, tickEntry_history, noAbort, advance]
    exact ⟨satInc16_toNat s.regs.rounds, rfl⟩
  · simp only [tickEntry_regs, tickEntry_history, noAbort, noAdvance]
    exact ⟨rfl, rfl⟩

/-- Settles O47: a SUBCLK by its three cases, and any other stimulus by the inversion of `exec`. -/
theorem positionCountsSubclks : Obligations.PositionCountsSubclks := by
  intro i s t ran noOverrun inRange noReset
  refine ⟨?_, fun noSubclk => (exec_result ran).timebase_kept noSubclk noReset⟩
  rintro ⟨raw, rfl⟩
  exact exec_subclk_position ran noOverrun inRange

/-- Settles O8: no agent is enabled in a recorded state, and ADC is in a busy one. -/
theorem recordedStateHasNoStep : Obligations.RecordedStateHasNoStep := by
  refine fun s => ⟨fun recorded => ⟨quiescent_of_recorded recorded, fun i => offer_of_recorded i recorded, ?_⟩,
    quiescent_of_pending⟩
  intro t stepped
  cases recorded.symm.trans (clean_of_step stepped)

end Sys2Proof.Machine
end

section
/-! SUPPORT. A channel over several samples: the history as a list of samples, what a change of the debounced state needs, and a press after an open sample. -/

namespace Sys2Proof.Machine

/-! ### The history (R92) -/

/-- A shift moves each bit up and brings the new sample in at bit 0. -/
theorem shiftHistory_getLsbD (hist : BitVec 5) (r : Bool) :
    (shiftHistory hist r).getLsbD 0 = r ∧ ∀ n < 4, (shiftHistory hist r).getLsbD (n + 1) = hist.getLsbD n := by
  revert hist r
  decide

/-- A new sample discards the oldest of the history. -/
theorem historySamples_append_cons (hist : BitVec 5) (r : Bool) (rs : List Bool) :
    historySamples hist ++ r :: rs = hist.getLsbD 4 :: (historySamples (shiftHistory hist r) ++ rs) := by
  obtain ⟨newest, older⟩ := shiftHistory_getLsbD hist r
  simp only [historySamples, List.cons_append, List.nil_append, newest, older 0 (by decide), older 1 (by decide),
    older 2 (by decide), older 3 (by decide)]

/-! ### The commit (R93) -/

/-- The debounced state changes only at a full or an empty history. -/
theorem commitDebounced_changed {hist : BitVec 5} {db : Bool} (changed : commitDebounced hist db ≠ db) :
    (hist = 0b11111 ∧ commitDebounced hist db = true) ∨ (hist = 0b00000 ∧ commitDebounced hist db = false) := by
  by_cases full : hist = 0b11111
  · exact .inl ⟨full, if_pos full⟩
  by_cases empty : hist = 0b00000
  · exact .inr ⟨empty, (if_neg full).trans (if_pos empty)⟩
  · exact absurd ((if_neg full).trans (if_neg empty)) changed

theorem Channel.sample_db (c : Channel) (r : Bool) : (c.sample r).db = commitDebounced (c.sample r).hist c.db := rfl

/-- R99 (a): a channel's debounced state changes only with a full or an empty new history. -/
theorem Channel.sample_db_changed {c : Channel} {r : Bool} (changed : (c.sample r).db ≠ c.db) :
    ((c.sample r).hist = 0b11111 ∧ (c.sample r).db = true) ∨ ((c.sample r).hist = 0b00000 ∧ (c.sample r).db = false) :=
  commitDebounced_changed changed

/-- At a change the history holds five samples of the level that the debounced state did not have. -/
theorem historySamples_of_db_changed {c : Channel} {r : Bool} (changed : (c.sample r).db ≠ c.db) :
    historySamples (c.sample r).hist = List.replicate 5 (!c.db) := by
  have other : (c.sample r).db = !c.db := Bool.eq_not_of_ne changed
  obtain ⟨full, pressed⟩ | ⟨empty, released⟩ := Channel.sample_db_changed changed
  · rw [← other, full, pressed]
    rfl
  · rw [← other, empty, released]
    rfl

/-- With an open sample still in the history a released channel stays released. -/
theorem commitDebounced_released {hist : BitVec 5} {n : Nat} (inHist : n < 5) (opened : hist.getLsbD n = false) :
    commitDebounced hist false = false := by
  by_contra changed
  obtain ⟨rfl, -⟩ | ⟨-, released⟩ := commitDebounced_changed changed
  · revert n
    decide
  · exact changed released

/-! ### Several samples (R99) -/

theorem Channel.samples_concat (c : Channel) (rs : List Bool) (r : Bool) :
    c.samples (rs ++ [r]) = (c.samples rs).sample r := List.foldl_concat ..

/-- Without five consecutive samples, a new one among them, of the level it does not have, the debounced state stays. -/
theorem Channel.samples_db_kept (c : Channel) (rs : List Bool)
    (noFive : ∀ before after : List Bool,
      historySamples c.hist ++ rs = before ++ List.replicate 5 (!c.db) ++ after → before = []) :
    (c.samples rs).db = c.db := by
  induction rs generalizing c with
  | nil => rfl
  | cons r rs ih =>
    have split := historySamples_append_cons c.hist r rs
    have kept : (c.sample r).db = c.db := by
      by_contra changed
      have five : historySamples (shiftHistory c.hist r) = List.replicate 5 (!c.db) := historySamples_of_db_changed changed
      rw [five] at split
      cases noFive [c.hist.getLsbD 4] rs split
    refine (ih (c.sample r) fun before after found => ?_).trans kept
    have found' : historySamples (shiftHistory c.hist r) ++ rs = before ++ List.replicate 5 (!c.db) ++ after := kept ▸ found
    rw [found'] at split
    cases noFive (c.hist.getLsbD 4 :: before) after split

/-- Up to four closed samples after an open one leave the open one in the history, and a released channel released. -/
theorem samples_closed_released {c : Channel} (released : c.db = false) (opened : c.hist.getLsbD 0 = false) {n : Nat}
    (le : n ≤ 4) :
    (c.samples (List.replicate n true)).hist.getLsbD n = false ∧ (c.samples (List.replicate n true)).db = false := by
  induction n with
  | zero => exact ⟨opened, released⟩
  | succ n ih =>
    obtain ⟨bit, db⟩ := ih (Nat.le_of_succ_le le)
    obtain ⟨-, older⟩ := shiftHistory_getLsbD (c.samples (List.replicate n true)).hist true
    have bit' := (older n le).trans bit
    rw [List.replicate_succ', Channel.samples_concat]
    refine ⟨bit', ?_⟩
    rw [Channel.sample_db, db]
    exact commitDebounced_released (Nat.lt_succ_of_le le) bit'

/-- The edge of one more closed sample: the debounced state it comes to is pressed and the one left in prev is released. -/
theorem samples_closed_rising (c : Channel) (n : Nat) :
    (c.samples (List.replicate n true)).rising true =
      ((c.samples (List.replicate (n + 1) true)).db && !(c.samples (List.replicate n true)).prev) := by
  rw [List.replicate_succ', Channel.samples_concat]
  rfl

end Sys2Proof.Machine
end

section
/-! SUPPORT. The statements about the debounced channels settled: one tick of a channel, the properties of R99, and the abort edge. -/

namespace Sys2Proof.Machine

/-- Settles O52: (a) by the commit, (b) since five samples fill the history, (c) by induction on the samples, each of which
discards the oldest in the history, and (d) since the fifth closed sample discards the last open one. -/
theorem debounceProperties : Obligations.DebounceProperties := by
  refine fun c => ⟨fun r => Channel.sample_db_changed, samples_five_db c, c.samples_db_kept, fun released opened => ⟨?_, ?_⟩⟩
  · intro k lt
    obtain ⟨-, still⟩ := samples_closed_released released opened (n := k + 1) lt
    rw [samples_closed_rising, still, Bool.false_and]
  · obtain ⟨-, before⟩ := samples_closed_released released opened (n := 4) le_rfl
    have settled : (c.samples (List.replicate 4 true)).prev = false := before
    rw [samples_closed_rising, samples_five_db, settled]
    rfl

/-- Settles O32: an abort edge overrides what phase A does to ROUNDS, and its event follows the advance edge's. -/
theorem abortEdgeEndsSession : Obligations.AbortEdgeEndsSession := by
  intro s raw wrap idle edge
  have rising : (tickEntry s).regs.abort.rising (raw.getLsbD 2) = true := edge
  refine ⟨_, exec_tickEntry raw wrap idle, ?_, ?_, ?_⟩ <;> rw [tickPhaseA_regs]
  · rw [rising]
    exact Bool.or_true _
  · exact if_pos rising
  · rw [tickPhaseA_history, rising]
    exact congrArg (s.history ++ ·) (List.append_assoc ..)

/-- Settles O29: the shift as arithmetic, and the commit and the edge by their definitions. -/
theorem channelSample : Obligations.ChannelSample := by
  refine fun c r => ⟨?_, rfl, rfl, ?_⟩
  · apply BitVec.eq_of_toNat_eq
    change (shiftHistory c.hist r).toNat = _
    rw [shiftHistory_eq_ofNat, BitVec.toNat_ofNat, BitVec.toNat_ofNat, Nat.mod_mod]
  · rw [Channel.rising_eq, Bool.and_eq_true, Bool.not_eq_true']

end Sys2Proof.Machine
end

section
/-! SUPPORT. The tier and its Relabel: which band a sample is in, what WR.TIER leaves, the tier after a whole tick, and which stimuli emit a Relabel. -/

namespace Sys2Proof.Machine

/-! ### The tier of a sample, of a host write and of a tick (R83, R103, R104, R141) -/

/-- Every sample is in one of the four bands, and its class is the number of the band (R104). -/
theorem classify_cases (p : Params) (v : Nat) :
    (v ≤ p.t1 ∧ classify p v = 0) ∨ (p.t1 < v ∧ v ≤ p.t2 ∧ classify p v = 1) ∨
    (p.t1 < v ∧ p.t2 < v ∧ v ≤ p.t3 ∧ classify p v = 2) ∨ (p.t1 < v ∧ p.t2 < v ∧ p.t3 < v ∧ classify p v = 3) := by
  obtain le1 | gt1 := le_or_gt v p.t1
  · exact .inl ⟨le1, classify_eq_zero le1⟩
  obtain le2 | gt2 := le_or_gt v p.t2
  · exact .inr (.inl ⟨gt1, le2, classify_eq_one gt1 le2⟩)
  obtain le3 | gt3 := le_or_gt v p.t3
  · exact .inr (.inr (.inl ⟨gt1, gt2, le3, classify_eq_two gt1 gt2 le3⟩))
  · exact .inr (.inr (.inr ⟨gt1, gt2, gt3, classify_eq_three gt1 gt2 gt3⟩))

/-- WR.TIER with BUSY = 0 loads the tier DATA[1:0] with its pair (R141). -/
theorem exec_wrTier (data : Word) {s : State} (idle : s.regs.busy = false) :
    exec (.wrTier data) s =
      .next { respond .ok s with regs := loadTier Config.params (BitVec.ofNat 2 (data.toNat % 4)) s.regs } := by
  rw [← extractLsb'_two_eq_ofNat]
  exact exec_write rfl idle

theorem writeCompletes_wrTier {s : State} {data : Word} {n : Nat} (idle : s.regs.busy = false) (low : data.toNat % 4 = n) :
    WriteCompletes (.wrTier data) s (loadTier Config.params (BitVec.ofNat 2 n) s.regs) := by
  subst low
  exact ⟨_, exec_wrTier data idle, rfl, rfl, rfl, rfl, rfl, rfl⟩

/-- Phase A leaves the tier and the sample before (R81). -/
theorem tickPhaseA_tier (raw : BitVec 3) (s : State) :
    (tickPhaseA raw s).regs.tier = s.regs.tier ∧ (tickPhaseA raw s).regs.adcLast = s.regs.adcLast := by
  rw [tickPhaseA_regs]
  exact ⟨rfl, rfl⟩

/-- The end of a conversion reclassifies a changed sample alone (R103). -/
theorem completed_tier (p : Params) (v : Half) (s : State) :
    (completed p v s).regs.tier = if v = s.regs.adcLast then s.regs.tier else classify p v.toNat := by
  rw [completed_regs]
  split <;> rfl

/-- A tick and the ADC_READY of its conversion both run, and reclassify a changed sample alone (R81, R83, R103). -/
theorem exec_tick_tier (raw : BitVec 3) {v : Half} {s : State} (idle : s.regs.busy = false)
    (wrap : ¬ s.regs.subtick.toNat < 255) (fits : v.toNat < 2 ^ 10) :
    ∃ b c, exec (.evtSubclk raw) s = .next b ∧ exec (.evtAdcReady v) b = .next c ∧
      c.regs.tier = if v = s.regs.adcLast then s.regs.tier else classify Config.params v.toNat := by
  have pending : (tickPhaseA raw (tickEntry s)).regs.busy = true := by rw [tickPhaseA_regs]
  obtain ⟨tier, sample⟩ := tickPhaseA_tier raw (tickEntry s)
  refine ⟨_, _, exec_tickEntry raw wrap idle, exec_adcReady fits pending, ?_⟩
  rw [completed_tier, tier, sample]
  rfl

/-! ### The Relabel of a changed sample (R107) -/

/-- The stimulus is the ADC_READY of a pending conversion whose sample fits and differs from the one before (R103). -/
def ChangesSample (p : Params) (i : Instr) (s : State) : Prop :=
  ∃ v : Half, i = .evtAdcReady v ∧ v.toNat < 2 ^ p.adcBits ∧ s.regs.busy = true ∧ v ≠ s.regs.adcLast

variable {p : Params} {i : Instr} {s t : State}

theorem not_changesSample_of_idle (idle : s.regs.busy = false) : ¬ ChangesSample p i s := by
  rintro ⟨v, -, -, pending, -⟩
  cases idle.symm.trans pending

theorem not_changesSample_of_notReady (notReady : ∀ v, i ≠ .evtAdcReady v) : ¬ ChangesSample p i s := by
  rintro ⟨v, ready, -⟩
  exact notReady v ready

/-- None of the three causes of a refusal leaves room for a changed sample (R73). -/
theorem RefusalCause.not_changesSample {c : RefusalCode} (cause : RefusalCause p i s c) : ¬ ChangesSample p i s := by
  obtain ⟨-, host, -⟩ | ⟨-, v, rfl, wide⟩ | ⟨-, v, -, -, idle⟩ := cause
  · apply not_changesSample_of_notReady
    rintro v rfl
    cases host
  · rintro ⟨_, ⟨⟩, fits, -⟩
    exact absurd fits wide.not_gt
  · exact not_changesSample_of_idle idle

/-- The stimulus appends events with `n` Relabels among them. -/
def AppendsRelabels (s t : State) (n : Nat) : Prop :=
  ∃ es, t.history = s.history ++ es ∧ es.countP Event.isRelabel = n

theorem appendsRelabels_zero_of_same (same : t.history = s.history) : AppendsRelabels s t 0 :=
  ⟨[], same.trans (List.append_nil _).symm, rfl⟩

/-- The events of phase A are edges and a conversion start (R81). -/
theorem tickPhaseA_appendsRelabels (raw : BitVec 3) (s : State) : AppendsRelabels s (tickPhaseA raw s) 0 := by
  refine ⟨_, tickPhaseA_history raw s, ?_⟩
  cases s.regs.adv.rising (raw.getLsbD 0) <;> cases s.regs.abort.rising (raw.getLsbD 2) <;> rfl

/-- The end of a conversion emits one Relabel if the sample changed, and nothing otherwise (R103, R107). -/
theorem completed_appendsRelabels (p : Params) (v : Half) (s : State) :
    AppendsRelabels s (completed p v s) (if v = s.regs.adcLast then 0 else 1) := by
  refine ⟨_, completed_history p v s, ?_⟩
  split <;> rfl

/-- A stimulus that changes the sample emits one Relabel, and any other stimulus none. -/
theorem ExecResult.relabels (result : ExecResult p i s t) :
    (ChangesSample p i s ∧ AppendsRelabels s t 1) ∨ (¬ ChangesSample p i s ∧ AppendsRelabels s t 0) := by
  cases result with
  | refused c cause => exact .inr ⟨cause.not_changesSample, appendsRelabels_zero_of_same rfl⟩
  | read _ _ idle | write _ _ idle | busFault _ _ idle =>
    exact .inr ⟨not_changesSample_of_idle idle, appendsRelabels_zero_of_same rfl⟩
  | count raw subclk | overrun raw subclk =>
    subst subclk
    exact .inr ⟨not_changesSample_of_notReady nofun, appendsRelabels_zero_of_same rfl⟩
  | tick raw _ _ idle => exact .inr ⟨not_changesSample_of_idle idle, tickPhaseA_appendsRelabels raw (tickEntry s)⟩
  | complete v ready fits pending =>
    have appends := completed_appendsRelabels p v s
    subst ready
    by_cases same : v = s.regs.adcLast
    · rw [if_pos same] at appends
      refine .inr ⟨?_, appends⟩
      rintro ⟨_, ⟨⟩, -, -, changed⟩
      exact changed same
    · rw [if_neg same] at appends
      exact .inl ⟨⟨v, rfl, fits, pending, same⟩, appends⟩
  | reset isReset =>
    subst isReset
    exact .inr ⟨not_changesSample_of_notReady nofun, [.reset], rfl, rfl⟩

end Sys2Proof.Machine
end

section
/-! SUPPORT. The statements about the tier settled: its Relabel, a host write over a tick, WR.TIER, and the bands. -/

namespace Sys2Proof.Machine

/-- Settles O35: by the inversion of `exec`, a Relabel comes from the end of a conversion with a changed sample alone. -/
theorem relabelExactlyOnChange : Obligations.RelabelExactlyOnChange := by
  intro i s t ran
  obtain ⟨changes, es, appended, one⟩ | ⟨unchanged, es, appended, zero⟩ := (exec_result ran).relabels
  · exact ⟨es, appended, fun _ => one, fun unchanged => absurd changes unchanged⟩
  · exact ⟨es, appended, fun changes => absurd changes unchanged, fun _ => zero⟩

/-- Settles O54: WR.TIER leaves the sample before, and the tick reclassifies a sample that differs from it alone. -/
theorem tierOverrideLastsUntilChange : Obligations.TierOverrideLastsUntilChange := by
  intro s raw v data idle wrap fits
  obtain ⟨b, c, tick, ready, tier⟩ := exec_tick_tier raw
    (s := { respond .ok s with regs := loadTier Config.params (BitVec.ofNat 2 (data.toNat % 4)) s.regs }) idle wrap fits
  exact ⟨_, b, c, exec_wrTier data idle, tick, ready, fun same => tier.trans (if_pos same),
    fun changed => tier.trans (if_neg changed)⟩

/-- Settles O22: DATA[1:0] is the code, and the table of R105 gives the pair of each of the four. -/
theorem writeTier_loadsPair : Obligations.WriteTier :=
  fun _ _ idle => ⟨writeCompletes_wrTier idle, writeCompletes_wrTier idle, writeCompletes_wrTier idle,
    writeCompletes_wrTier idle⟩

/-- Settles O34: in each band the class is its number, and with T1 < T2 < T3 no sample is in two bands. -/
theorem classifyBands : Obligations.ClassifyBands := by
  rintro p v ⟨-, -, lt12, lt23, -⟩
  obtain ⟨le1, cls⟩ | ⟨gt1, le2, cls⟩ | ⟨gt1, gt2, le3, cls⟩ | ⟨gt1, gt2, gt3, cls⟩ := classify_cases p v <;>
    simp [cls] <;> omega

end Sys2Proof.Machine
end

section
/-! SUPPORT. TIME_MS as a function of the position in time, and the position over a run with no RESET and no wrap. -/

namespace Sys2Proof.Machine

/-- At the default TOP and F_SUB a millisecond is 2000 positions, and no count is large enough for the result to wrap (R112). -/
theorem timeMs_toNat (tickCount : Word) (subtick : Half) :
    (timeMs Config.params tickCount subtick).toNat = (tickCount.toNat * 256 + subtick.toNat) / 2000 := by
  have ticks := tickCount.isLt
  have counted := subtick.isLt
  simp only [timeMs, Config.params, BitVec.toNat_ofNat]
  omega

/-- At SUBTICK = 0 the position is T · 256, and 256 / 2000 is 128 / 1000 (R114). -/
theorem timeMs_wholeTicks (tickCount : Word) : (timeMs Config.params tickCount 0).toNat = tickCount.toNat * 128 / 1000 := by
  have noSubtick : (0 : Half).toNat = 0 := rfl
  rw [timeMs_toNat, noSubtick]
  omega

theorem State.timeMs_eq_position (s : State) : s.timeMs = s.regs.position / 2000 :=
  timeMs_toNat s.regs.tickCount s.regs.subtick

theorem State.timeMs_mono {s t : State} (le : s.regs.position ≤ t.regs.position) : s.timeMs ≤ t.timeMs := by
  rw [s.timeMs_eq_position, t.timeMs_eq_position]
  exact Nat.div_le_div_right le

theorem Regs.position_congr {r r' : Regs} (ticks : r'.tickCount = r.tickCount) (subtick : r'.subtick = r.subtick) :
    r'.position = r.position := by
  simp only [Regs.position, ticks, subtick]

/-- One count up modulo the whole range only goes down by the wrap of TICK_COUNT. -/
theorem Regs.position_le_of_count {r r' : Regs} (counted : r'.position = (r.position + 1) % (256 * 2 ^ 32))
    (inRange : r.subtick.toNat < 256) (noWrap : r.tickCount.toNat ≤ r'.tickCount.toNat) : r.position ≤ r'.position := by
  have ticks := r.tickCount.isLt
  simp only [Regs.position] at counted ⊢
  omega

/-- A stimulus other than RESET that neither overruns nor wraps TICK_COUNT never moves the position back. -/
theorem exec_position_le {i : Instr} {s t : State} (ran : exec i s = .next t) (noReset : i ≠ .evtReset)
    (noOverrun : t.overrun = false) (inRange : s.regs.subtick.toNat < 256)
    (noWrap : s.regs.tickCount.toNat ≤ t.regs.tickCount.toNat) : s.regs.position ≤ t.regs.position := by
  by_cases subclk : ∃ raw, i = .evtSubclk raw
  · obtain ⟨raw, rfl⟩ := subclk
    exact Regs.position_le_of_count (exec_subclk_position ran noOverrun inRange) inRange noWrap
  · obtain ⟨ticks, subtick⟩ := (exec_result ran).timebase_kept (not_exists.1 subclk) noReset
    exact (Regs.position_congr ticks subtick).ge

/-- The same of a step: the stimulus runs, or a refusal by the decoder leaves the registers. -/
theorem step_position_le {s t : State} (inv : State.Inv Config.params s) (stepped : step s = .next t)
    (noReset : ∀ rest, fetch s ≠ .instr .evtReset rest) (noOverrun : t.overrun = false)
    (noWrap : s.regs.tickCount.toNat ≤ t.regs.tickCount.toNat) : s.regs.position ≤ t.regs.position := by
  obtain ⟨noFault, -, ⟨i, rest, fetched, ran⟩ | ⟨code, -, rfl⟩⟩ := step_result stepped
  · have inRange : s.regs.subtick.toNat < 256 := (inv (overrun_of_clean noFault)).subtickBelowTop
    have notReset : i ≠ .evtReset := by
      rintro rfl
      exact noReset rest fetched
    exact exec_position_le (s := { s with stream := rest }) ran notReset noOverrun inRange noWrap
  · exact le_rfl

theorem NoWrapRun.inv {s t : State} (run : NoWrapRun s t) (inv : State.Inv Config.params s) :
    State.Inv Config.params t := by
  induction run with
  | refl => exact inv
  | step _ next _ _ _ ih => exact stepKeepsInvariant _ _ ih next

theorem NoWrapRun.position_le {s t : State} (run : NoWrapRun s t) (inv : State.Inv Config.params s) :
    s.regs.position ≤ t.regs.position := by
  induction run with
  | refl => exact le_rfl
  | step before next noReset noOverrun noWrap ih =>
    exact ih.trans (step_position_le (before.inv inv) next noReset noOverrun noWrap)

end Sys2Proof.Machine
end

section
/-! SUPPORT. The statements about TIME_MS settled. -/

namespace Sys2Proof.Machine

/-- Settles O48, by induction on the run: no step moves the position back, and TIME_MS follows the position. -/
theorem elapsedNeverDecreases : Obligations.ElapsedNeverDecreases :=
  fun _ _ inv _ run => State.timeMs_mono (run.position_le inv)

/-- Settles O49: the floor is 0 at 0, and it is non-decreasing because the product is. -/
theorem elapsedTimeOfTicks : Obligations.ElapsedTimeOfTicks := by
  refine ⟨congrArg BitVec.toNat (timeMs_zero Config.params), timeMs_wholeTicks, fun a b le => ?_⟩
  rw [timeMs_wholeTicks, timeMs_wholeTicks]
  exact Nat.div_le_div_right (Nat.mul_le_mul_right 128 le)

end Sys2Proof.Machine
end

section
/-! SUPPORT. The state with another PWM counter: each operation answers the same from it, but for the counter it leaves. -/

namespace Sys2Proof.Machine

/-- The state with another value of PWM_CNT.CNT. -/
def State.withPwmCnt (s : State) (cnt : Byte) : State := { s with regs := { s.regs with pwmCnt := cnt } }

/-! ### Host accesses (R124) -/

theorem hostStep_withPwmCnt {access : State → State} {cnt : Byte}
    (blind : ∀ s, access (s.withPwmCnt cnt) = (access s).withPwmCnt cnt) (s : State) :
    hostStep access (s.withPwmCnt cnt) = (hostStep access s).withPwmCnt cnt := by
  have same : (s.withPwmCnt cnt).regs.busy = s.regs.busy := rfl
  rw [hostStep, hostStep, same, blind]
  split <;> rfl

/-- A read whose value does not depend on the counter. -/
theorem completeRead_withPwmCnt {value : Regs → Word} {cnt : Byte}
    (blind : ∀ r : Regs, value { r with pwmCnt := cnt } = value r) {s t : State} (ran : completeRead value s = .next t) :
    completeRead value (s.withPwmCnt cnt) = .next (t.withPwmCnt cnt) := by
  cases ran
  exact congrArg Host.Outcome.next (hostStep_withPwmCnt (fun s => by rw [State.withPwmCnt, blind]; rfl) s)

/-- A write whose effect neither depends on the counter nor changes it. -/
theorem completeWrite_withPwmCnt {effect : Regs → Regs} {cnt : Byte}
    (blind : ∀ r : Regs, effect { r with pwmCnt := cnt } = { effect r with pwmCnt := cnt }) {s t : State}
    (ran : completeWrite effect s = .next t) : completeWrite effect (s.withPwmCnt cnt) = .next (t.withPwmCnt cnt) := by
  cases ran
  exact congrArg Host.Outcome.next (hostStep_withPwmCnt (fun s => by rw [State.withPwmCnt, blind]; rfl) s)

theorem busErrorAccess_withPwmCnt {d : Dir} {ofs : Byte} {i : Instr} {s t : State} (cnt : Byte)
    (ran : busErrorAccess d ofs i s = .next t) : busErrorAccess d ofs i (s.withPwmCnt cnt) = .next (t.withPwmCnt cnt) := by
  obtain ⟨busy, rfl⟩ | ⟨idle, code, fault, rfl⟩ := busErrorAccess_next ran
  · exact if_pos busy
  · rw [busErrorAccess_fault i _ fault, hostStep_idle _ (s := s.withPwmCnt cnt) idle]
    rfl

/-! ### The tick and its return (R81, R83) -/

theorem channelTick_withPwmCnt (c : Chan) (r : Bool) (n : Word) (s : State) (cnt : Byte) :
    channelTick c r n (s.withPwmCnt cnt) = (channelTick c r n s).withPwmCnt cnt := by
  have same : (s.withPwmCnt cnt).regs.chan c = s.regs.chan c := by cases c <;> rfl
  rw [channelTick, channelTick, same]
  split <;> cases c <;> rfl

/-- A tick counts the other counter up from its own value (R118). -/
theorem tickPhaseA_withPwmCnt (raw : BitVec 3) (s : State) (cnt : Byte) :
    tickPhaseA raw (s.withPwmCnt cnt) = (tickPhaseA raw s).withPwmCnt (cnt + 1) := by
  have ticks : (s.withPwmCnt cnt).regs.tickCount = s.regs.tickCount := rfl
  simp only [tickPhaseA, ticks, channelTick_withPwmCnt]
  rfl

theorem completed_withPwmCnt (p : Params) (v : Half) (s : State) (cnt : Byte) :
    completed p v (s.withPwmCnt cnt) = (completed p v s).withPwmCnt cnt := by
  have same : (quiet (s.withPwmCnt cnt)).regs.adcLast = (quiet s).regs.adcLast := rfl
  rw [completed, completed, adcComplete, adcComplete, same]
  split <;> rfl

/-! ### Every stimulus but RD.PWM_CNT (R123) -/

theorem exec_subclk_withPwmCnt {raw : BitVec 3} {s t : State} (ran : exec (.evtSubclk raw) s = .next t)
    (noOverrun : t.overrun = false) (cnt : Byte) :
    ∃ cnt', exec (.evtSubclk raw) (s.withPwmCnt cnt) = .next (t.withPwmCnt cnt') := by
  by_cases below : s.regs.subtick.toNat < 255
  · cases (exec_count raw below).symm.trans ran
    exact ⟨cnt, exec_count (s := s.withPwmCnt cnt) raw below⟩
  cases busy : s.regs.busy with
  | true =>
    cases (exec_overrun raw below busy).symm.trans ran
    cases (overrun_raiseOverrun _ s).symm.trans noOverrun
  | false =>
    cases (exec_tickEntry raw below busy).symm.trans ran
    refine ⟨cnt + 1, (exec_tickEntry (s := s.withPwmCnt cnt) raw below busy).trans ?_⟩
    exact congrArg Host.Outcome.next (tickPhaseA_withPwmCnt raw (tickEntry s) cnt)

theorem exec_adcReady_withPwmCnt {v : Half} {s t : State} (ran : exec (.evtAdcReady v) s = .next t) (cnt : Byte) :
    exec (.evtAdcReady v) (s.withPwmCnt cnt) = .next (t.withPwmCnt cnt) := by
  by_cases fits : v.toNat < 2 ^ 10
  · cases busy : s.regs.busy with
    | true =>
      cases (exec_adcReady fits busy).symm.trans ran
      rw [← completed_withPwmCnt]
      exact exec_adcReady (s := s.withPwmCnt cnt) fits busy
    | false =>
      cases (exec_notPending fits busy).symm.trans ran
      exact exec_notPending (s := s.withPwmCnt cnt) fits busy
  · cases (exec_wide s (Nat.not_lt.mp fits)).symm.trans ran
    exact exec_wide _ (Nat.not_lt.mp fits)

/-- From the state with another counter every stimulus but RD.PWM_CNT answers the same next state but for the counter in it,
unless it overruns. -/
theorem exec_withPwmCnt {i : Instr} {s t : State} (notOwnRead : i ≠ .rdPwmCnt) (ran : exec i s = .next t)
    (noOverrun : t.overrun = false) (cnt : Byte) : ∃ cnt', exec i (s.withPwmCnt cnt) = .next (t.withPwmCnt cnt') := by
  cases i with
  | rdBtnState | rdBtnHist | rdRounds | rdStatus | rdTimeMs | rdTickCount | rdSubtick | rdAdcLast | rdTier | rdScrollMs
  | rdJumpMs | rdPwmCmp =>
    simp only [exec, execRdBtnState, execRdBtnHist, execRdRounds, execRdStatus, execRdTimeMs, readTimeMs, execRdTickCount,
      execRdSubtick, execRdAdcLast, execRdTier, execRdScrollMs, execRdJumpMs, execRdPwmCmp] at ran ⊢
    exact ⟨cnt, completeRead_withPwmCnt (fun _ => rfl) ran⟩
  | rdPwmCnt => exact absurd rfl notOwnRead
  | wrRounds | wrRoundsDec | wrStatus | wrTier | wrPwmCmp =>
    simp only [exec, execWrRounds, execWrRoundsDec, execWrStatus, execWrTier, writeTier, execWrPwmCmp] at ran ⊢
    exact ⟨cnt, completeWrite_withPwmCnt (fun _ => rfl) ran⟩
  | evtSubclk => exact exec_subclk_withPwmCnt ran noOverrun cnt
  | evtAdcReady => exact ⟨cnt, exec_adcReady_withPwmCnt ran cnt⟩
  | evtReset =>
    cases (exec_reset s).symm.trans ran
    exact ⟨0, exec_reset _⟩
  | rdBuserr | wrBuserr => exact ⟨cnt, busErrorAccess_withPwmCnt cnt ran⟩

end Sys2Proof.Machine
end

section
/-! SUPPORT. The PWM controller over a run: what one stimulus does to its counter, the counter after each tick, and the values and the duty of one whole turn of it. -/

namespace Sys2Proof.Machine

/-! ### The counter over a run (R118) -/

variable {p : Params} {stim : Nat → Instr} {states : Nat → State} {n : Nat}

theorem isTick_eq_false_of_agent {i : Instr} {s : State} (notTimer : agentOf i ≠ some .timer) : isTick p i s = false := by
  simp [isTick, notTimer]

theorem agentOf_of_hostWriteEffect {i : Instr} {r r' : Regs} (effect : hostWriteEffect p i r = some r') :
    agentOf i = some .host := by
  cases i <;> cases effect <;> rfl

/-- Whatever the parameters, a stimulus of a run that is no RESET counts the counter up by one at a tick, and else leaves it. -/
theorem run_step_pwmCnt {i : Instr} {s t : State} (ran : execWith p i s = .next t) (clean : t.clean = true)
    (noReset : i ≠ .evtReset) : t.regs.pwmCnt = if isTick p i s then s.regs.pwmCnt + 1 else s.regs.pwmCnt := by
  cases execWith_result ran with
  | refused | busFault | overrun => simp [State.clean] at clean
  | read v host => rw [isTick_eq_false_of_agent (by simp [host])]; rfl
  | write r effect =>
    obtain ⟨-, -, -, -, pwm, -⟩ := hostWriteEffect_frame effect
    rw [isTick_eq_false_of_agent (by simp [agentOf_of_hostWriteEffect effect])]
    exact pwm
  | count raw _ below =>
    have noTick : isTick p i s = false := by simp [isTick, below]
    rw [noTick]
    rfl
  | tick raw subclk wrap idle =>
    have tick : isTick p i s = true := by simp [isTick, subclk, agentOf, wrap, idle]
    rw [tick, tickPhaseA_regs]
    rfl
  | complete v ready =>
    obtain ⟨-, -, -, -, pwm⟩ := completed_frame p v s
    rw [isTick_eq_false_of_agent (by simp [ready, agentOf])]
    exact pwm
  | reset isReset => exact absurd isReset noReset

theorem ticksOf_succ (p : Params) (stim : Nat → Instr) (states : Nat → State) (n : Nat) :
    ticksOf p stim states (n + 1) =
      ticksOf p stim states n ++ if isTick p (stim n) (states n) then [n] else [] := by
  rw [ticksOf, List.range_succ, List.filter_append, List.filter_singleton, Bool.cond_eq_ite]
  rfl

theorem lt_of_mem_ticksOf {k : Nat} (mem : k ∈ ticksOf p stim states n) : k < n :=
  List.mem_range.1 (List.mem_of_mem_filter mem)

theorem IsRun.before {m : Nat} (run : IsRun p stim states n) (le : m ≤ n) : IsRun p stim states m :=
  fun k lt => run k (lt.trans_le le)

/-- The `m` values the counter takes from `cnt` on, at one a tick. -/
def countsFrom (cnt : Byte) (m : Nat) : List Byte := (List.range m).map fun j => cnt + BitVec.ofNat 8 j

theorem countsFrom_succ (cnt : Byte) (m : Nat) : countsFrom cnt (m + 1) = countsFrom cnt m ++ [cnt + BitVec.ofNat 8 m] := by
  simp [countsFrom, List.range_succ]

/-- Over a run with no RESET the counter goes up by the number of ticks, and stands after them at the values from the one after
its first on. -/
theorem IsRun.pwmCnt (run : IsRun p stim states n) (noReset : ∀ k < n, stim k ≠ .evtReset) :
    (states n).regs.pwmCnt = (states 0).regs.pwmCnt + BitVec.ofNat 8 (ticksOf p stim states n).length ∧
    (ticksOf p stim states n).map (fun k => (states (k + 1)).regs.pwmCnt) =
      countsFrom ((states 0).regs.pwmCnt + 1) (ticksOf p stim states n).length := by
  induction n with
  | zero => exact ⟨(BitVec.add_zero _).symm, rfl⟩
  | succ n ih =>
    obtain ⟨counted, values⟩ := ih (run.before n.le_succ) fun k lt => noReset k (lt.trans n.lt_succ_self)
    obtain ⟨-, ran, clean⟩ := run n n.lt_succ_self
    have step := run_step_pwmCnt ran clean (noReset n n.lt_succ_self)
    rw [ticksOf_succ]
    cases tick : isTick p (stim n) (states n) with
    | false =>
      rw [tick] at step
      simpa using ⟨step.trans counted, values⟩
    | true =>
      rw [tick, if_pos rfl, counted] at step
      rw [if_pos rfl, List.map_append, List.map_singleton, List.length_append, List.length_singleton, values,
        countsFrom_succ, step, BitVec.ofNat_add]
      exact ⟨add_assoc _ _ _, by rw [add_right_comm]⟩

/-- PWM_CMP stays over a run with neither RESET nor a write to it. -/
theorem IsRun.pwmCmp (run : IsRun p stim states n)
    (undisturbed : ∀ k < n, stim k ≠ .evtReset ∧ ∀ data, stim k ≠ .wrPwmCmp data) :
    (states n).regs.pwmCmp = (states 0).regs.pwmCmp := by
  induction n with
  | zero => rfl
  | succ n ih =>
    obtain ⟨-, ran, clean⟩ := run n n.lt_succ_self
    obtain ⟨noReset, noWrite⟩ := undisturbed n n.lt_succ_self
    exact (run_step_pwmCmp ran clean noReset noWrite).trans
      (ih (run.before n.le_succ) fun k lt => undisturbed k (lt.trans n.lt_succ_self))

/-! ### One turn of the counter (R119, R120) -/

theorem countsFrom_nodup (cnt : Byte) : (countsFrom cnt 256).Nodup := by
  refine List.Nodup.map_on (fun a ha b hb same => ?_) List.nodup_range
  rw [List.mem_range] at ha hb
  have low := congrArg BitVec.toNat (add_left_cancel same)
  rwa [BitVec.toNat_ofNat, BitVec.toNat_ofNat, Nat.mod_eq_of_lt ha, Nat.mod_eq_of_lt hb] at low

theorem mem_countsFrom (cnt v : Byte) : v ∈ countsFrom cnt 256 := by
  refine List.mem_map.2 ⟨(v - cnt).toNat, List.mem_range.2 (v - cnt).isLt, ?_⟩
  rw [BitVec.ofNat_toNat, BitVec.setWidth_eq, add_sub_cancel]

/-- A turn of the counter has the same values wherever it begins. -/
theorem countsFrom_perm (cnt cnt' : Byte) : (countsFrom cnt 256).Perm (countsFrom cnt' 256) :=
  (List.perm_ext_iff_of_nodup (countsFrom_nodup cnt) (countsFrom_nodup cnt')).2
    fun v => iff_of_true (mem_countsFrom cnt v) (mem_countsFrom cnt' v)

theorem countP_range_lt (m n : Nat) : (List.range n).countP (fun k => decide (k < m)) = min n m := by
  induction n with
  | zero => simp
  | succ n ih =>
    rw [List.range_succ, List.countP_append, ih, List.countP_singleton]
    by_cases lt : n < m <;> simp [lt] <;> omega

/-- Over a turn of the counter OUT is high for CMP of its values. -/
theorem countP_outLevel (cnt cmp : Byte) : (countsFrom cnt 256).countP (outLevel · cmp) = cmp.toNat := by
  rw [(countsFrom_perm cnt 0).countP_eq, countsFrom, List.countP_map]
  have low : (List.range 256).countP ((outLevel · cmp) ∘ fun j => 0 + BitVec.ofNat 8 j) =
      (List.range 256).countP fun k => decide (k < cmp.toNat) := by
    refine List.countP_congr fun k mem => ?_
    simp [outLevel, Nat.mod_eq_of_lt (List.mem_range.1 mem)]
  rw [low, countP_range_lt, Nat.min_eq_right cmp.isLt.le]

end Sys2Proof.Machine
end

section
/-! SUPPORT. The statements about the PWM controller settled. -/

namespace Sys2Proof.Machine

/-- Settles O50: the 256 ticks are one turn of the counter, which has each value once and CMP of them below CMP. -/
theorem pwmDuty : Obligations.PwmDuty := by
  intro p stim states n run undisturbed turn
  obtain ⟨-, values⟩ := run.pwmCnt fun k lt => (undisturbed k lt).1
  rw [turn] at values
  refine ⟨fun v => ?_, ?_⟩
  · have once := List.count_eq_one_of_mem (countsFrom_nodup _) (mem_countsFrom ((states 0).regs.pwmCnt + 1) v)
    rwa [← values, List.count, List.countP_map] at once
  · have high := countP_outLevel ((states 0).regs.pwmCnt + 1) (states 0).regs.pwmCmp
    rw [← values, List.countP_map] at high
    refine (List.countP_congr fun k mem => ?_).trans high
    have le : k + 1 ≤ n := lt_of_mem_ticksOf mem
    have cmp := (run.before le).pwmCmp fun j lt => undisturbed j (lt.trans_le le)
    rw [State.pwmOut, cmp]
    rfl

/-- Settles O51: the same next state but for its counter has the same ports, history, records and other registers. -/
theorem pwmCounterIsolated : Obligations.PwmCounterIsolated := by
  intro i s t cnt notOwnRead ran noOverrun
  obtain ⟨cnt', ran'⟩ := exec_withPwmCnt notOwnRead ran noOverrun cnt
  exact ⟨t.withPwmCnt cnt', ran', rfl, rfl, rfl, rfl, rfl⟩

end Sys2Proof.Machine
end

section
/-! SUPPORT. A host access with BUSY = 0: the value a read answers as a number, the register a write loads, and the fault a bus error takes. -/

namespace Sys2Proof.Machine

/-! ### Fields as numbers (R23 to R36, R71) -/

/-- The number of a concatenation: the upper part counts in units of the lower part's size. -/
theorem toNat_append_add {m n : Nat} (hi : BitVec m) (lo : BitVec n) : (hi ++ lo).toNat = hi.toNat * 2 ^ n + lo.toNat := by
  rw [BitVec.toNat_append, ← Nat.shiftLeft_add_eq_or_of_lt lo.isLt, Nat.shiftLeft_eq]

/-- A word whose high byte is `hi` (R63). -/
theorem byte_append_eq_ofNat (hi lo : Byte) : hi ++ lo = BitVec.ofNat 16 (hi.toNat * 2 ^ 8 + lo.toNat) := by
  rw [← toNat_append_add, BitVec.ofNat_toNat, BitVec.setWidth_eq]

/-- DATA[n-1:0] as a number (R71). -/
theorem extractLsb'_zero_eq_ofNat (n : Nat) (data : Word) : data.extractLsb' 0 n = BitVec.ofNat n (data.toNat % 2 ^ n) := by
  apply BitVec.eq_of_toNat_eq
  simp [BitVec.extractLsb'_toNat]

theorem btnStateValue_eq_ofNat (r : Regs) :
    btnStateValue r = BitVec.ofNat 32 (r.adv.db.toNat + 2 * r.jump.db.toNat + 4 * r.abort.db.toNat +
      16 * r.adv.prev.toNat + 32 * r.jump.prev.toNat + 64 * r.abort.prev.toNat) := by
  rw [btnStateValue, ← BitVec.ofNat_toNat]
  simp only [toNat_append_add, BitVec.toNat_ofBool, BitVec.toNat_ofNat]
  congr 1
  omega

theorem btnHistValue_eq_ofNat (r : Regs) :
    btnHistValue r =
      BitVec.ofNat 32 (r.adv.hist.toNat + 2 ^ 8 * r.jump.hist.toNat + 2 ^ 16 * r.abort.hist.toNat) := by
  rw [btnHistValue, ← BitVec.ofNat_toNat]
  simp only [toNat_append_add, BitVec.toNat_ofNat]
  congr 1
  omega

theorem pwmCntValue_eq_ofNat (r : Regs) :
    pwmCntValue r = BitVec.ofNat 32 (r.pwmCnt.toNat + if r.pwmCnt.toNat < r.pwmCmp.toNat then 2 ^ 8 else 0) := by
  rw [pwmCntValue, ← BitVec.ofNat_toNat, toNat_append_add, BitVec.toNat_ofBool, outLevel, Nat.add_comm]
  by_cases high : r.pwmCnt.toNat < r.pwmCmp.toNat <;> simp [high]

/-- A flag read in bit 0 (R27, R128). -/
theorem setWidth_ofBool (flag : Bool) : (BitVec.ofBool flag).setWidth 32 = if flag = true then 1 else 0 := by
  cases flag <;> rfl

/-- DATA[0] = 1 is odd DATA (R140). -/
theorem abortPendAfterWrite_eq (abortPend : Bool) (data : Word) :
    abortPendAfterWrite abortPend data = if data.toNat % 2 = 1 then false else abortPend := by
  simp [abortPendAfterWrite, BitVec.getLsbD, Nat.testBit_zero]

/-! ### Completed accesses (R124) -/

/-- The read of one field completes with it zero-extended (R22, R124). -/
theorem readCompletes_field {i : Instr} {s : State} {n : Nat} (field : Regs → BitVec n)
    (isRead : exec i s = completeRead (fun r => (field r).setWidth 32) s) (idle : s.regs.busy = false) :
    ReadCompletes i s (BitVec.ofNat 32 (field s.regs).toNat) :=
  readCompletes_of_completeRead isRead (BitVec.ofNat_toNat 32 _).symm idle

/-- A host write completes with its effect on the registers where no conversion is pending. -/
theorem writeCompletes_of_effect {i : Instr} {s : State} {r : Regs}
    (effect : hostWriteEffect Config.params i s.regs = some r) (idle : s.regs.busy = false) : WriteCompletes i s r :=
  ⟨_, exec_write effect idle, rfl, rfl, rfl, rfl, rfl, rfl⟩

/-- The registers of the one next state of a completed write. -/
theorem WriteCompletes.regs_eq {i : Instr} {s t : State} {r : Regs} (completes : WriteCompletes i s r)
    (ran : exec i s = .next t) : t.regs = r := by
  obtain ⟨u, ran', -, regs, -⟩ := completes
  cases ran.symm.trans ran'
  exact regs

/-! ### Bus errors (R143 to R145, R150) -/

/-- The fault of an aligned access of a mapped register that the direction may not access (R144, R145). -/
def Dir.forbiddenFault (d : Dir) : FaultCode :=
  match d with
  | .rd => .busWoRead
  | .wr => .busRoWrite

/-- At an offset of no exact row the checks of R124 find a fault: misaligned, else unmapped, else of the direction. -/
theorem busFault_unmatched {d : Dir} {ofs : Byte} (unmatched : ofs ∉ d.exactOffsets) :
    busFault d ofs = some (if ofs.toNat % 4 ≠ 0 then .busMisaligned else if 0x34 < ofs.toNat then .busUnmapped
      else d.forbiddenFault) := by
  revert ofs
  cases d <;> decide

/-- A fallback stimulus that some word spells is at an offset of no exact row (R70). -/
theorem Dir.unmatched_of_wellFormed {d : Dir} {ofs : Byte} {data : Word} (wf : (d.fallback ofs data).wellFormed = true) :
    ofs ∉ d.exactOffsets := by
  cases d with
  | rd | wr => simpa [Dir.fallback, Dir.exactOffsets, Instr.wellFormed, Instr.wellFormedWith] using wf

/-- The fallback row takes the fault the checks find, where no conversion is pending, and records its own two words. -/
theorem busErrorTaken_fallback {d : Dir} {ofs : Byte} {data : Word} {s : State}
    (wf : (d.fallback ofs data).wellFormed = true) (idle : s.regs.busy = false) :
    BusErrorTaken (d.fallback ofs data) s
      (if ofs.toNat % 4 ≠ 0 then .busMisaligned else if 0x34 < ofs.toNat then .busUnmapped else d.forbiddenFault)
      (d.fallback ofs data).control (d.fallback ofs data).dataWord := by
  have fault := busFault_unmatched (Dir.unmatched_of_wellFormed wf)
  have taken := exec_fallback d ofs data s
  rw [busErrorAccess_fault _ s fault, hostStep_idle _ idle] at taken
  exact ⟨_, _, taken, rfl, rfl, rfl, rfl, rfl, rfl, rfl, rfl, rfl⟩

end Sys2Proof.Machine
end

section
/-! SUPPORT. The statements about the values of host reads and writes and about bus errors settled. -/

namespace Sys2Proof.Machine

/-- Settles O25: the checks of R124 at an offset of no exact RD row; the control word is the offset. -/
theorem busErrorReads : Obligations.BusErrorReads := by
  intro s ofs idle wf
  have taken := busErrorTaken_fallback (d := .rd) (data := 0) wf idle
  have control : (Instr.rdBuserr ofs).control = BitVec.ofNat 16 ofs.toNat :=
    (byte_append_eq_ofNat 0x00 ofs).trans (by simp)
  exact ⟨control ▸ taken, rfl, rfl, rfl⟩

/-- Settles O26: the checks of R124 at an offset of no exact WR row; the control word is the offset below the class of WR. -/
theorem busErrorWrites : Obligations.BusErrorWrites := by
  intro s ofs data idle wf
  have taken := busErrorTaken_fallback (d := .wr) wf idle
  have control : (Instr.wrBuserr ofs data).control = BitVec.ofNat 16 (0x4000 + ofs.toNat) := byte_append_eq_ofNat 0x40 ofs
  exact ⟨control ▸ taken, rfl, rfl, rfl⟩

/-- Settles O14: the two values as the sums of their fields. -/
theorem buttonReads : Obligations.ButtonReads :=
  fun s idle => ⟨readCompletes_of_completeRead rfl (btnStateValue_eq_ofNat s.regs) idle,
    readCompletes_of_completeRead rfl (btnHistValue_eq_ofNat s.regs) idle⟩

/-- Settles O15: COUNT is one field, and the flag is bit 0. -/
theorem roundsAndStatusReads : Obligations.RoundsAndStatusReads :=
  fun s idle => ⟨readCompletes_field Regs.rounds rfl idle,
    readCompletes_of_completeRead (value := fun r => (BitVec.ofBool r.abortPend).setWidth 32) rfl
      (setWidth_ofBool s.regs.abortPend) idle⟩

/-- Settles O17: each of the four registers is one field. -/
theorem analogReads : Obligations.AnalogReads :=
  fun _ idle => ⟨readCompletes_field Regs.adcLast rfl idle, readCompletes_field Regs.tier rfl idle,
    readCompletes_field Regs.scrollMs rfl idle, readCompletes_field Regs.jumpMs rfl idle⟩

/-- Settles O18: CMP is one field, and OUT stands above CNT. -/
theorem pwmReads : Obligations.PwmReads :=
  fun s idle => ⟨readCompletes_field Regs.pwmCmp rfl idle,
    readCompletes_of_completeRead rfl (pwmCntValue_eq_ofNat s.regs) idle⟩

/-- Settles O19: the effect on ROUNDS is DATA[15:0]. -/
theorem writeRounds : Obligations.WriteRounds := by
  intro s data idle
  rw [← extractLsb'_zero_eq_ofNat]
  exact writeCompletes_of_effect rfl idle

/-- Settles O20: the effect on ROUNDS is the saturating decrement of R14, in which natural subtraction stops at 0. -/
theorem writeRoundsDec : Obligations.WriteRoundsDec :=
  fun _ _ idle => writeCompletes_of_effect rfl idle

/-- Settles O21: the effect on ABORT_PEND by the parity of DATA. -/
theorem writeStatus : Obligations.WriteStatus := by
  intro s data idle
  rw [← abortPendAfterWrite_eq]
  exact writeCompletes_of_effect rfl idle

/-- Settles O23: the effect on PWM_CMP is DATA[7:0], and the pin is a function of the registers it leaves. -/
theorem writePwmCmp : Obligations.WritePwmCmp := by
  intro s data idle
  have completes : WriteCompletes (.wrPwmCmp data) s { s.regs with pwmCmp := BitVec.ofNat 8 (data.toNat % 2 ^ 8) } := by
    rw [← extractLsb'_zero_eq_ofNat]
    exact writeCompletes_of_effect rfl idle
  refine ⟨completes, fun t ran => ?_⟩
  rw [State.pwmOut, completes.regs_eq ran, outLevel, BitVec.toNat_ofNat, Nat.mod_mod]

end Sys2Proof.Machine
end

section
/-! SUPPORT. The partition of the registers by writer (R165): what a host access leaves alone, whether it completes, faults or is refused, and what the timer and the ADC leave alone. -/

namespace Sys2Proof.Machine

variable {p : Params} {i : Instr} {s t : State}

/-- A host access leaves what only the tick and ADC_READY write. Of its four outcomes, only a completed write changes a register. -/
theorem ExecResult.host_frame (result : ExecResult p i s t) (host : agentOf i = some .host) :
    (∀ c, t.regs.chan c = s.regs.chan c) ∧ t.regs.tickCount = s.regs.tickCount ∧ t.regs.subtick = s.regs.subtick ∧
    t.regs.adcLast = s.regs.adcLast ∧ t.regs.pwmCnt = s.regs.pwmCnt ∧ t.regs.busy = s.regs.busy := by
  cases result with
  | refused | read | busFault => exact ⟨fun _ => rfl, rfl, rfl, rfl, rfl, rfl⟩
  | write r effect => exact hostWriteEffect_frame effect
  | count raw event | overrun raw event | tick raw event | complete v event | reset event => subst event; cases host

theorem adcComplete_pwmCmp (p : Params) (v : Half) (s : State) : (adcComplete p v s).regs.pwmCmp = s.regs.pwmCmp := by
  rw [adcComplete_regs]
  split <;> rfl

/-- PWM_CMP is the host's: a stimulus of the timer or the ADC leaves it, unless it overruns (R160). -/
theorem ExecResult.pwmCmp_kept (result : ExecResult p i s t) (event : agentOf i = some .timer ∨ agentOf i = some .adc)
    (noOverrun : t.overrun = false) : t.regs.pwmCmp = s.regs.pwmCmp := by
  cases result with
  | refused | read | busFault | count => rfl
  | write r effect => simp [agentOf_of_hostWriteEffect effect] at event
  | overrun => cases (overrun_raiseOverrun i s).symm.trans noOverrun
  | tick raw => rw [tickPhaseA_regs]
  | complete v => exact adcComplete_pwmCmp p v (quiet s)
  | reset isReset => simp [isReset, agentOf] at event

end Sys2Proof.Machine
end

section
/-! SUPPORT. The statement about who writes which part of the state, settled. -/

namespace Sys2Proof.Machine

/-- Settles O42: each row of the partition is one case analysis of what a stimulus can do. -/
theorem statePartitionedByWriter : Obligations.StatePartitionedByWriter :=
  fun _ _ _ ran => ⟨(exec_result ran).host_frame, (exec_result ran).pwmCmp_kept⟩

end Sys2Proof.Machine
end

section
/-! SUPPORT. The statement about the initial state, settled: its channels are the reset channel, and each value derived from its registers comes from the derived value's own law. -/

namespace Sys2Proof.Machine

/-- Every channel resets to an empty history, released now and before (R42). -/
theorem Regs.chan_reset (c : Chan) : Regs.reset.chan c = ⟨0b00000, false, false⟩ := by
  cases c <;> rfl

/-- The pin is low where the counter has just reached the compare value: the compare of R119 is strict. -/
theorem outLevel_self (b : Byte) : outLevel b b = false :=
  decide_eq_false (lt_irrefl b.toNat)

/-- Settles O37: the registers, ports and records are written out in the reset state; TIME_MS is the time of position 0, and the
pin compares 0 with 0. -/
theorem initialStateValues : Obligations.InitialStateValues := by
  have time : State.timeMs State.reset = 0 := congrArg BitVec.toNat (timeMs_zero Config.params)
  have pin : State.pwmOut State.reset = false := outLevel_self 0
  exact ⟨Regs.chan_reset, rfl, rfl, rfl, rfl, time, rfl, rfl, rfl, rfl, rfl, rfl, pin, rfl, rfl, rfl, rfl, rfl, rfl, rfl, rfl⟩

end Sys2Proof.Machine
end
